-- ==== Sys2Proof/Word.lean ====
section
/-! DEFINITION. The value types of the CJM-U128 CORE: the 128-bit value, its 64-bit limb, the 32-bit command word and
the one-bit carry (00_scope.md R5, R8; 10_state.md R26). All widths are fixed (R5). -/

namespace Sys2Proof

/-- A 128-bit value (00_scope.md R5). -/
abbrev Word := BitVec 128

/-- A 64-bit limb (00_scope.md R5). -/
abbrev Limb := BitVec 64

/-- A carry or borrow: 1 bit (10_state.md R25). -/
abbrev Bit := BitVec 1

/-- A command word, `cmd[31:0]` (30_encoding.md R60). -/
abbrev CmdWord := BitVec 32

end Sys2Proof
end

