-- ==== Sys2Proof/Syntax.lean ====
section
/-! DEFINITION. The commands of the CJM-U128 CORE as syntax: one constructor per row of spec/opcode_table.json
(30_encoding.md R66). Data operands are port values, so a command's syntax holds only its CSEL or SHAMT field (R65). -/

namespace Sys2Proof

/-- The carry select of a format C command (30_encoding.md R63). CSEL = 11 is illegal, so it has no constructor. -/
inductive CarrySel where
  /-- CSEL = 00: carry in 0. -/
  | zero
  /-- CSEL = 01: the `cin` port. -/
  | port
  /-- CSEL = 10: COUT as the previous executed command left it. -/
  | chain
  deriving DecidableEq, Repr

/-- The 27 commands (30_encoding.md R66). A shift amount is written as a number, as the assembler writes it (R71, log 12);
`Instr.wellFormed` says it is at most 127. -/
inductive Instr where
  | addc128 (csel : CarrySel)
  | subb128 (csel : CarrySel)
  | addc64 (csel : CarrySel)
  | subb64 (csel : CarrySel)
  | mulw64
  | mul128
  | divmod
  | trydivmod
  | udivmod
  | shl
  | shr
  | shli (n : Nat)
  | shri (n : Nat)
  | pack
  | split
  | frombLe
  | frombBe
  | frombNat
  | extz8
  | extz16
  | extz32
  | extz64
  | exts8
  | exts16
  | exts32
  | exts64
  | rdcfg
  deriving DecidableEq, Repr

end Sys2Proof
end

