-- ==== Sys2Proof/WellFormed.lean ====
section
/-! DEFINITION. Which command terms have an encoding: a shift amount fits the 7-bit SHAMT field (30_encoding.md R64).
Every other field is well formed by its type. -/

namespace Sys2Proof

/-- The amounts a SHAMT field holds: [0, 127] (30_encoding.md R64). -/
def shamtFits (n : Nat) : Bool := decide (n ≤ 127)

/-- A command has an encoding when its shift amount, if it has one, fits SHAMT (30_encoding.md R64, R71). -/
def Instr.wellFormed : Instr → Bool
  | .shli n => shamtFits n
  | .shri n => shamtFits n
  | .addc128 _ => true
  | .subb128 _ => true
  | .addc64 _ => true
  | .subb64 _ => true
  | .mulw64 => true
  | .mul128 => true
  | .divmod => true
  | .trydivmod => true
  | .udivmod => true
  | .shl => true
  | .shr => true
  | .pack => true
  | .split => true
  | .frombLe => true
  | .frombBe => true
  | .frombNat => true
  | .extz8 => true
  | .extz16 => true
  | .extz32 => true
  | .extz64 => true
  | .exts8 => true
  | .exts16 => true
  | .exts32 => true
  | .exts64 => true
  | .rdcfg => true

end Sys2Proof
end

