-- ==== Sys2Proof/Decode.lean ====
section
/-! DEFINITION. The decoder of 30_encoding.md R69, total on all 2^32 words, and the encoder written from the same format
and opcode tables (R61, R63, R64, R66). A word is a port value and not a byte sequence, so no byte order applies
(20_memory.md R42); no encoding depends on configuration or state (R70). -/

namespace Sys2Proof

/-- The three formats (30_encoding.md R61). -/
inductive Format where
  | n
  | c
  | s
  deriving DecidableEq, Repr

/-- OPC = `cmd[7:0]` (30_encoding.md R62). -/
def opcOf (w : CmdWord) : BitVec 8 := w.extractLsb' 0 8

/-- CSEL = `cmd[9:8]` (30_encoding.md R63). -/
def cselOf (w : CmdWord) : BitVec 2 := w.extractLsb' 8 2

/-- SHAMT = `cmd[14:8]` (30_encoding.md R64). -/
def shamtOf (w : CmdWord) : BitVec 7 := w.extractLsb' 8 7

/-- The meaning of CSEL; 11 is reserved (30_encoding.md R63). -/
def carrySelOf : BitVec 2 → Option CarrySel
  | 0b00#2 => some .zero
  | 0b01#2 => some .port
  | 0b10#2 => some .chain
  | _ => none

/-- The format N rows of the opcode map (30_encoding.md R66). -/
def commandN : BitVec 8 → Option Instr
  | 0x10#8 => some .mulw64
  | 0x11#8 => some .mul128
  | 0x20#8 => some .divmod
  | 0x21#8 => some .trydivmod
  | 0x22#8 => some .udivmod
  | 0x30#8 => some .shl
  | 0x31#8 => some .shr
  | 0x40#8 => some .pack
  | 0x41#8 => some .split
  | 0x42#8 => some .frombLe
  | 0x43#8 => some .frombBe
  | 0x44#8 => some .frombNat
  | 0x48#8 => some .extz8
  | 0x49#8 => some .extz16
  | 0x4A#8 => some .extz32
  | 0x4B#8 => some .extz64
  | 0x4C#8 => some .exts8
  | 0x4D#8 => some .exts16
  | 0x4E#8 => some .exts32
  | 0x4F#8 => some .exts64
  | 0xF0#8 => some .rdcfg
  | _ => none

/-- The format C rows of the opcode map (30_encoding.md R66). -/
def commandC (sel : CarrySel) : BitVec 8 → Option Instr
  | 0x01#8 => some (.addc128 sel)
  | 0x02#8 => some (.subb128 sel)
  | 0x03#8 => some (.addc64 sel)
  | 0x04#8 => some (.subb64 sel)
  | _ => none

/-- The format S rows of the opcode map (30_encoding.md R66). -/
def commandS (amount : Nat) : BitVec 8 → Option Instr
  | 0x32#8 => some (.shli amount)
  | 0x33#8 => some (.shri amount)
  | _ => none

/-- The format of an opcode, none where R66 does not list it (30_encoding.md R66, R69). -/
def formatOf (opc : BitVec 8) : Option Format :=
  if (commandN opc).isSome then some .n
  else if (commandC .zero opc).isSome then some .c
  else if (commandS 0 opc).isSome then some .s
  else none

/-- The decoder (30_encoding.md R69). `none` is ILLEGAL (R67): an unlisted OPC, a reserved bit that is not 0, or
CSEL = 11. -/
def decode (w : CmdWord) : Option Instr :=
  match formatOf (opcOf w) with
  | none => none
  | some .n => if w.extractLsb' 8 24 = 0#24 then commandN (opcOf w) else none
  | some .c =>
    if w.extractLsb' 10 22 = 0#22 then
      match carrySelOf (cselOf w) with
      | some sel => commandC sel (opcOf w)
      | none => none
    else none
  | some .s => if w.extractLsb' 15 17 = 0#17 then commandS (shamtOf w).toNat (opcOf w) else none

/-- The opcode of a command (30_encoding.md R66). -/
def Instr.opcode : Instr → BitVec 8
  | .addc128 _ => 0x01#8
  | .subb128 _ => 0x02#8
  | .addc64 _ => 0x03#8
  | .subb64 _ => 0x04#8
  | .mulw64 => 0x10#8
  | .mul128 => 0x11#8
  | .divmod => 0x20#8
  | .trydivmod => 0x21#8
  | .udivmod => 0x22#8
  | .shl => 0x30#8
  | .shr => 0x31#8
  | .shli _ => 0x32#8
  | .shri _ => 0x33#8
  | .pack => 0x40#8
  | .split => 0x41#8
  | .frombLe => 0x42#8
  | .frombBe => 0x43#8
  | .frombNat => 0x44#8
  | .extz8 => 0x48#8
  | .extz16 => 0x49#8
  | .extz32 => 0x4A#8
  | .extz64 => 0x4B#8
  | .exts8 => 0x4C#8
  | .exts16 => 0x4D#8
  | .exts32 => 0x4E#8
  | .exts64 => 0x4F#8
  | .rdcfg => 0xF0#8

/-- The CSEL field of a carry select (30_encoding.md R63). -/
def CarrySel.bits : CarrySel → BitVec 2
  | .zero => 0b00#2
  | .port => 0b01#2
  | .chain => 0b10#2

/-- `cmd[31:8]` of a command's word: CSEL or SHAMT, and 0 in every reserved bit (30_encoding.md R61). -/
def Instr.operandField : Instr → BitVec 24
  | .addc128 sel => 0#22 ++ sel.bits
  | .subb128 sel => 0#22 ++ sel.bits
  | .addc64 sel => 0#22 ++ sel.bits
  | .subb64 sel => 0#22 ++ sel.bits
  | .shli n => 0#17 ++ BitVec.ofNat 7 n
  | .shri n => 0#17 ++ BitVec.ofNat 7 n
  | .mulw64 => 0#24
  | .mul128 => 0#24
  | .divmod => 0#24
  | .trydivmod => 0#24
  | .udivmod => 0#24
  | .shl => 0#24
  | .shr => 0#24
  | .pack => 0#24
  | .split => 0#24
  | .frombLe => 0#24
  | .frombBe => 0#24
  | .frombNat => 0#24
  | .extz8 => 0#24
  | .extz16 => 0#24
  | .extz32 => 0#24
  | .extz64 => 0#24
  | .exts8 => 0#24
  | .exts16 => 0#24
  | .exts32 => 0#24
  | .exts64 => 0#24
  | .rdcfg => 0#24

/-- The word of a well-formed command (30_encoding.md R61, R66). -/
def encode (i : Instr) : CmdWord := i.operandField ++ i.opcode

/-- The command read from an opcode-table word of `nbits` bits with value `w`, bits above `nbits` being 0. Every command
is one 32-bit word (30_encoding.md R60), so a value that does not fit 32 bits is no command (log 10). -/
def decodeTableWord (nbits w : Nat) : Option Instr :=
  if w % 2 ^ nbits < 2 ^ 32 then decode (BitVec.ofNat 32 (w % 2 ^ nbits)) else none

end Sys2Proof
end

