-- ==== Sys2Proof/Config.lean ====
section
/-! DEFINITION. The configuration CFG: the build parameters of 00_scope.md R6, with the legality constraints of
10_state.md R22. Which legal combination a CORE is built with is open (92_eei_decisions.md D15, D16): it is a constant
with no body. -/

namespace Sys2Proof

/-- The calculation mode, CFG.MODE (00_scope.md R6; 10_state.md R22). Code 3 is not a legal configuration, so it has no
constructor (log 13). -/
inductive CalculationMode where
  | nativeWide
  | intrinsic64
  | portable
  deriving DecidableEq, Repr, Inhabited

/-- The byte order, CFG.BYTE_ORDER (00_scope.md R6). -/
inductive ByteOrder where
  | le
  | be
  deriving DecidableEq, Repr, Inhabited

/-- The configuration register CFG, field by field (10_state.md R22). How RDCFG lays the fields out is
`cfgLayout` of Machine/Operands.lean. -/
structure Cfg where
  mode          : CalculationMode
  hasNative128  : Bool
  hasAdc        : Bool
  hasMul64      : Bool
  hasDiv128by64 : Bool
  byteOrder     : ByteOrder
  deriving DecidableEq, Repr, Inhabited

/-- The legal configurations (10_state.md R22): NATIVE_WIDE requires HAS_NATIVE128, INTRINSIC64 requires one of HAS_ADC,
HAS_MUL64, HAS_DIV128_64, and PORTABLE is legal with any flags. -/
def Cfg.legal (c : Cfg) : Bool :=
  match c.mode with
  | .nativeWide  => c.hasNative128
  | .intrinsic64 => c.hasAdc || c.hasMul64 || c.hasDiv128by64
  | .portable    => true

/-- The parameters a builder asks for. DESIGN CHOICE (log 1), safe: no body, so no proof can see a value. -/
opaque Config.declared : Cfg

/-- The configuration the CORE is built with: any legal one (10_state.md R22). A declared combination that is legal is
taken as it is, and one that is not falls back to PORTABLE with the same flags and byte order, which is always legal
("absence of a capability silently selects the portable fallback path"); every legal configuration is a value this
constant may have. -/
def Config.build : Cfg :=
  if Config.declared.legal then Config.declared else { Config.declared with mode := .portable }

end Sys2Proof
end

