-- ==== Sys2Proof/Machine/State.lean ====
section
/-! DEFINITION. The state of the CORE and of the host beside it, as plain data, and the state right after reset
(10_state.md R22 to R33; 70_reset_and_hazards.md R250). -/

namespace Sys2Proof.Machine

/-- The outcome codes STATUS can hold (60_exceptions.md R220). The bits of each are `StatusCode.bits` of
Machine/Flags.lean. -/
inductive StatusCode where
  /-- The command succeeded. -/
  | ok
  /-- DIVMOD with divisor zero: recoverable. -/
  | divDomain
  /-- TRYDIVMOD with divisor zero: recoverable. -/
  | divNoValue
  /-- UDIVMOD with divisor zero: sticky fault. -/
  | ubDivZero
  /-- SHL or SHR with an amount of 128 or more: sticky fault. -/
  | ubShift
  /-- An illegal command word: sticky fault. -/
  | illegal
  deriving DecidableEq, Repr

/-- What the host does at one moment between commands: the levels it drives on the six input ports (10_state.md R26), and
whether it reads the ports `r` and `r2` before the CORE acts on those levels (70_reset_and_hazards.md R260). -/
structure HostMove where
  /-- Port `cmd`, the command word. -/
  cmd      : CmdWord
  /-- Port `a`, the first operand. -/
  a        : Word
  /-- Port `b`, the second operand or the shift amount. -/
  b        : Word
  /-- Port `cin`, the carry or borrow in under CSEL = PORT. -/
  cin      : Bit
  /-- Port `cmd_valid`: the host offers a command. -/
  cmdValid : Bool
  /-- Port `rst`: reset. -/
  rst      : Bool
  /-- The host reads port `r`. -/
  readsR   : Bool
  /-- The host reads port `r2`. -/
  readsR2  : Bool
  deriving DecidableEq, Repr

/-- The state: the CORE's registers (10_state.md R28), the configuration (R22), and the host's present and later moves
(log 2: the ports are inputs by R26, held here because a step is a function of State alone). -/
structure State where
  /-- R, the primary result register: a value or NONE (10_state.md R23). -/
  r        : Option Word
  /-- R2, the secondary result register: a value or NONE (10_state.md R24). -/
  r2       : Option Word
  /-- COUT, the carry/borrow register (10_state.md R25). -/
  cout     : Bit
  /-- STATUS, the outcome of the last executed command (10_state.md R27). -/
  status   : BitVec 4
  /-- CFG, the build parameters (10_state.md R22). -/
  cfg      : Cfg
  /-- The host's present move: the levels on the input ports now (10_state.md R26). -/
  now      : HostMove
  /-- The host's later moves, the next one first (70_reset_and_hazards.md R260). -/
  upcoming : List HostMove
  deriving DecidableEq, Repr

/-- Why a step stops. Both are host faults of 60_exceptions.md R228; the CORE itself never stops, since each of its
errors and faults is a state (R223 to R225). -/
inductive Fault where
  /-- The host reads port `r` while R holds no value (60_exceptions.md R228). Raised by `hostReadFault`. Safe: the spec
  gives such a read no value and has a model fault there. -/
  | readOfR
  /-- The host reads port `r2` while R2 holds no value (60_exceptions.md R228). Raised by `hostReadFault`. Safe, as
  above. -/
  | readOfR2
  deriving DecidableEq, Repr

/-- Why a step is refused. -/
inductive Refusal where
  /-- An instruction with no meaning yet, by its mnemonic. Nothing raises it: every command has its meaning. Safe. -/
  | notModelled (mnemonic : String)
  deriving DecidableEq, Repr

/-- The outcome of a step of this machine. -/
abbrev Result := Host.Outcome State Fault Refusal

/-- A host that drives every data port to 0, offers no command, applies no reset and reads nothing. -/
def HostMove.idle : HostMove :=
  { cmd := 0#32, a := 0#128, b := 0#128, cin := 0#1, cmdValid := false, rst := false, readsR := false, readsR2 := false }

/-- The machine right after reset (10_state.md R33; 70_reset_and_hazards.md R250): R and R2 hold NONE, COUT is 0, STATUS
is OK, CFG is the build's. The host's fields are a DESIGN CHOICE (log 2): an idle host with no later move. -/
def State.reset : State :=
  { r := none, r2 := none, cout := 0#1, status := 0x0#4, cfg := Config.build, now := HostMove.idle, upcoming := [] }

end Sys2Proof.Machine
end

