-- ==== Sys2Proof/Machine/Flags.lean ====
section
/-! DEFINITION. COUT and STATUS: the carry and borrow out (40_adder.md R100 to R103), the carry in that CSEL selects
(30_encoding.md R63), the status codes (60_exceptions.md R220) and the faulted state (R225). COUT is the only flag
(10_state.md R30). -/

namespace Sys2Proof.Machine

/-- The code of an outcome (60_exceptions.md R220). -/
def StatusCode.bits : StatusCode → BitVec 4
  | .ok         => 0x0#4
  | .divDomain  => 0x1#4
  | .divNoValue => 0x2#4
  | .ubDivZero  => 0x8#4
  | .ubShift    => 0x9#4
  | .illegal    => 0xA#4

/-- The CORE is faulted while STATUS[3] = 1 (60_exceptions.md R225). -/
def State.faulted (s : State) : Bool := s.status.getLsbD 3

/-- The carry out of an exact sum of two `n`-bit operands and a carry: 1 when it does not fit in `n` bits
(40_adder.md R100, R102). -/
def carryOut (n sum : Nat) : Bit := if 2 ^ n ≤ sum then 1#1 else 0#1

/-- The borrow out of an exact difference: 1 when it is negative (40_adder.md R101, R103). -/
def borrowOut (difference : Int) : Bit := if difference < 0 then 1#1 else 0#1

/-- The carry or borrow in, `c_in`, of an add or subtract (30_encoding.md R63). -/
def carryIn (sel : CarrySel) (s : State) : Bit :=
  match sel with
  | .zero  => 0#1
  | .port  => s.now.cin
  | .chain => s.cout

end Sys2Proof.Machine
end

