-- ==== Sys2Proof/Machine/Operands.lean ====
section
/-! DEFINITION. How commands view their operands: limbs, low parts, byte lanes, the shift amount, the configuration as
RDCFG lays it out, and which ports each command reads (00_scope.md R8, R9; 30_encoding.md R65; 44_converter.md R183). -/

namespace Sys2Proof.Machine

/-- The low `n` bits of a value, `v[n-1:0]` (00_scope.md R8). -/
def low (n : Nat) (v : Word) : BitVec n := v.setWidth n

/-- The low limb, `v[63:0]` (00_scope.md R8). -/
def lowLimb (v : Word) : Limb := v.extractLsb' 0 64

/-- The high limb, `v[127:64]` (00_scope.md R8). -/
def highLimb (v : Word) : Limb := v.extractLsb' 64 64

/-- `zext_128` (00_scope.md R9). -/
def zext {n : Nat} (v : BitVec n) : Word := v.setWidth 128

/-- `sext_128` (00_scope.md R9). -/
def sext {n : Nat} (v : BitVec n) : Word := v.signExtend 128

/-- Byte lane `i` of a bus value, `v[8i+7:8i]` (00_scope.md R8; 44_converter.md R183). -/
def lane (v : Word) (i : Nat) : BitVec 8 := v.extractLsb' (8 * i) 8

/-- `bswap128`: the lanes in reverse order, lane 0 of `v` becoming lane 15 (44_converter.md R183). -/
def bswap128 (v : Word) : Word :=
  lane v 0 ++ lane v 1 ++ lane v 2 ++ lane v 3 ++ lane v 4 ++ lane v 5 ++ lane v 6 ++ lane v 7 ++
    lane v 8 ++ lane v 9 ++ lane v 10 ++ lane v 11 ++ lane v 12 ++ lane v 13 ++ lane v 14 ++ lane v 15

/-- The amount of SHL and SHR when it is in range: all of port `b`, unsigned, below 128 (43_shifter.md R160, R161). -/
def shiftAmount (b : Word) : Option Nat := if b.toNat < 128 then some b.toNat else none

/-- MODE's code (00_scope.md R6). -/
def modeBits : CalculationMode → BitVec 2
  | .nativeWide  => 0#2
  | .intrinsic64 => 1#2
  | .portable    => 2#2

/-- BYTE_ORDER's code (00_scope.md R6). -/
def byteOrderBit : ByteOrder → BitVec 1
  | .le => 0#1
  | .be => 1#1

/-- CFG[6:0] (10_state.md R22): BYTE_ORDER, HAS_DIV128_64, HAS_MUL64, HAS_ADC, HAS_NATIVE128, MODE, from bit 6 down. -/
def cfgLayout (c : Cfg) : BitVec 7 :=
  byteOrderBit c.byteOrder ++ BitVec.ofBool c.hasDiv128by64 ++ BitVec.ofBool c.hasMul64 ++ BitVec.ofBool c.hasAdc ++
    BitVec.ofBool c.hasNative128 ++ modeBits c.mode

/-- What of the input a command reads: the low `aBits` of port `a`, the low `bBits` of port `b`, port `cin`, and COUT. -/
structure PortUse where
  aBits : Nat
  bBits : Nat
  cin   : Bool
  cout  : Bool
  deriving DecidableEq, Repr

/-- The part of `cin` and COUT a carry select reads (30_encoding.md R63). -/
def carryUse (n : Nat) (sel : CarrySel) : PortUse :=
  { aBits := n, bBits := n, cin := decide (sel = .port), cout := decide (sel = .chain) }

/-- The ports each command reads, as its rule names them (30_encoding.md R65; the Operands lines of 40_adder.md to
45_system.md). Every other input bit is ignored. -/
def portsRead : Instr → PortUse
  | .addc128 sel => carryUse 128 sel
  | .subb128 sel => carryUse 128 sel
  | .addc64 sel => carryUse 64 sel
  | .subb64 sel => carryUse 64 sel
  | .mulw64 => ⟨64, 64, false, false⟩
  | .mul128 => ⟨128, 128, false, false⟩
  | .divmod => ⟨128, 128, false, false⟩
  | .trydivmod => ⟨128, 128, false, false⟩
  | .udivmod => ⟨128, 128, false, false⟩
  | .shl => ⟨128, 128, false, false⟩
  | .shr => ⟨128, 128, false, false⟩
  | .shli _ => ⟨128, 0, false, false⟩
  | .shri _ => ⟨128, 0, false, false⟩
  | .pack => ⟨64, 64, false, false⟩
  | .split => ⟨128, 0, false, false⟩
  | .frombLe => ⟨128, 0, false, false⟩
  | .frombBe => ⟨128, 0, false, false⟩
  | .frombNat => ⟨128, 0, false, false⟩
  | .extz8 => ⟨8, 0, false, false⟩
  | .extz16 => ⟨16, 0, false, false⟩
  | .extz32 => ⟨32, 0, false, false⟩
  | .extz64 => ⟨64, 0, false, false⟩
  | .exts8 => ⟨8, 0, false, false⟩
  | .exts16 => ⟨16, 0, false, false⟩
  | .exts32 => ⟨32, 0, false, false⟩
  | .exts64 => ⟨64, 0, false, false⟩
  | .rdcfg => ⟨0, 0, false, false⟩

end Sys2Proof.Machine
end

