-- ==== Sys2Proof/Machine/Ops.lean ====
section
/-! DEFINITION. The operations the commands share: the arithmetic of the families, writing an outcome, ending in an error
or a fault, running a command unless the CORE is faulted, and reset (60_exceptions.md R222 to R226;
70_reset_and_hazards.md R250). -/

namespace Sys2Proof.Machine

/-- `add_with_carry` at width `n` (40_adder.md R100, R102): the exact sum mod 2^n, and its carry out. -/
def addWithCarry {n : Nat} (x y : BitVec n) (c : Bit) : BitVec n × Bit :=
  (BitVec.ofNat n (x.toNat + y.toNat + c.toNat), carryOut n (x.toNat + y.toNat + c.toNat))

/-- `sub_with_borrow` at width `n` (40_adder.md R101, R103): the exact difference mod 2^n, and its borrow out. -/
def subWithBorrow {n : Nat} (x y : BitVec n) (c : Bit) : BitVec n × Bit :=
  (BitVec.ofInt n ((x.toNat : Int) - y.toNat - c.toNat), borrowOut ((x.toNat : Int) - y.toNat - c.toNat))

/-- The division function (42_divider.md R140). It is used only with a divisor that is not zero. -/
def udivmod (a b : Word) : Word × Word :=
  (BitVec.ofNat 128 (a.toNat / b.toNat), BitVec.ofNat 128 (a.toNat % b.toNat))

/-- The writes of a successful command: R, R2, COUT, and STATUS <- OK (60_exceptions.md R226; 10_state.md R30). -/
def State.respond (s : State) (r r2 : Word) (cout : Bit) : State :=
  { s with r := some r, r2 := some r2, cout := cout, status := StatusCode.ok.bits }

/-- The writes of a command that ends in an error or a fault: STATUS <- its code, R and R2 <- NONE, COUT <- 0
(60_exceptions.md R223, R224, R226). The CORE is then faulted exactly when the code has bit 3 set (R225). There is no
trap: nothing is saved and control goes nowhere (R229). -/
def State.endWith (s : State) (code : StatusCode) : State :=
  { s with r := none, r2 := none, cout := 0#1, status := code.bits }

/-- The reset event (70_reset_and_hazards.md R250): R and R2 <- NONE, COUT <- 0, STATUS <- OK; CFG is not changed. It is
the only way out of the faulted state (R251; 60_exceptions.md R230). -/
def State.applyReset (s : State) : State :=
  { s with r := none, r2 := none, cout := 0#1, status := StatusCode.ok.bits }

/-- Run a command whose effect is `effect`, unless the CORE is faulted: then it has no effect (60_exceptions.md R222
case 1, R225; log 11). -/
def unlessFaulted (s : State) (effect : State) : Result := .next (if s.faulted then s else effect)

/-- An illegal command word raises ILLEGAL, unless the CORE is faulted (60_exceptions.md R222 case 2; 30_encoding.md R67). -/
def raiseIllegal (s : State) : Result := unlessFaulted s (s.endWith .illegal)

/-- A divide command whose outcome at divisor zero is `code` (42_divider.md R141, R142, R143). -/
def divideOr (code : StatusCode) (s : State) : State :=
  if s.now.b.toNat = 0 then s.endWith code
  else s.respond (udivmod s.now.a s.now.b).1 (udivmod s.now.a s.now.b).2 0#1

/-- A shift by port `b`: the shifted value, or the fault UB_SHIFT for an amount of 128 or more (43_shifter.md R160,
R161). -/
def shiftByPort (shift : Word → Nat → Word) (s : State) : State :=
  match shiftAmount s.now.b with
  | some n => s.respond (shift s.now.a n) 0#128 0#1
  | none => s.endWith .ubShift

/-- Logical left shift: zeros fill from bit 0 (43_shifter.md R160, R162). -/
def shiftLeft (v : Word) (n : Nat) : Word := v <<< n

/-- Logical right shift: zeros fill from bit 127 (43_shifter.md R161, R163). -/
def shiftRight (v : Word) (n : Nat) : Word := v >>> n

/-- A command with one result, no carry (10_state.md R24, R25): R <- `v`, R2 <- 0, COUT <- 0. -/
def State.respondOne (s : State) (v : Word) : State := s.respond v 0#128 0#1

end Sys2Proof.Machine
end

