-- ==== Sys2Proof/Machine/Adder.lean ====
section
/-! DEFINITION. The ADDER family: add with carry and subtract with borrow at 64 and 128 bits (40_adder.md). -/

namespace Sys2Proof.Machine

/-- ADDC128 (40_adder.md R102). -/
def execAddc128 (sel : CarrySel) (s : State) : Result :=
  let res := addWithCarry s.now.a s.now.b (carryIn sel s)
  unlessFaulted s (s.respond res.1 0#128 res.2)

/-- SUBB128 (40_adder.md R103). -/
def execSubb128 (sel : CarrySel) (s : State) : Result :=
  let res := subWithBorrow s.now.a s.now.b (carryIn sel s)
  unlessFaulted s (s.respond res.1 0#128 res.2)

/-- ADDC64 (40_adder.md R100): the low limbs of `a` and `b`; the high limbs are ignored. -/
def execAddc64 (sel : CarrySel) (s : State) : Result :=
  let res := addWithCarry (lowLimb s.now.a) (lowLimb s.now.b) (carryIn sel s)
  unlessFaulted s (s.respond (zext res.1) 0#128 res.2)

/-- SUBB64 (40_adder.md R101): the low limbs of `a` and `b`; the high limbs are ignored. -/
def execSubb64 (sel : CarrySel) (s : State) : Result :=
  let res := subWithBorrow (lowLimb s.now.a) (lowLimb s.now.b) (carryIn sel s)
  unlessFaulted s (s.respond (zext res.1) 0#128 res.2)

end Sys2Proof.Machine
end

