-- ==== Sys2Proof/Machine/Converter.lean ====
section
/-! DEFINITION. The CONVERTER family: limbs, byte images and native integer widths (44_converter.md). -/

namespace Sys2Proof.Machine

/-- PACK (44_converter.md R180): the high limb from `a`, the low limb from `b`. -/
def execPack (s : State) : Result :=
  unlessFaulted s (s.respondOne (lowLimb s.now.a ++ lowLimb s.now.b))

/-- SPLIT (44_converter.md R181): the high limb to R, the low limb to R2. -/
def execSplit (s : State) : Result :=
  unlessFaulted s (s.respond (zext (highLimb s.now.a)) (zext (lowLimb s.now.a)) 0#1)

/-- FROMB.LE (44_converter.md R184): the identity, by the lane convention of R183. -/
def execFrombLe (s : State) : Result := unlessFaulted s (s.respondOne s.now.a)

/-- FROMB.BE (44_converter.md R185). -/
def execFrombBe (s : State) : Result := unlessFaulted s (s.respondOne (bswap128 s.now.a))

/-- The value of a native storage image (44_converter.md R186): the whole value in the native byte order (log 8). -/
def fromNative (order : ByteOrder) (image : Word) : Word :=
  match order with
  | .le => image
  | .be => bswap128 image

/-- FROMB.NAT (44_converter.md R186): dispatch on CFG.BYTE_ORDER. -/
def execFrombNat (s : State) : Result := unlessFaulted s (s.respondOne (fromNative s.cfg.byteOrder s.now.a))

/-- EXTZ8 (44_converter.md R187). -/
def execExtz8 (s : State) : Result := unlessFaulted s (s.respondOne (zext (low 8 s.now.a)))

/-- EXTZ16 (44_converter.md R188). -/
def execExtz16 (s : State) : Result := unlessFaulted s (s.respondOne (zext (low 16 s.now.a)))

/-- EXTZ32 (44_converter.md R189). -/
def execExtz32 (s : State) : Result := unlessFaulted s (s.respondOne (zext (low 32 s.now.a)))

/-- EXTZ64 (44_converter.md R190). -/
def execExtz64 (s : State) : Result := unlessFaulted s (s.respondOne (zext (low 64 s.now.a)))

/-- EXTS8 (44_converter.md R191). -/
def execExts8 (s : State) : Result := unlessFaulted s (s.respondOne (sext (low 8 s.now.a)))

/-- EXTS16 (44_converter.md R192). -/
def execExts16 (s : State) : Result := unlessFaulted s (s.respondOne (sext (low 16 s.now.a)))

/-- EXTS32 (44_converter.md R193). -/
def execExts32 (s : State) : Result := unlessFaulted s (s.respondOne (sext (low 32 s.now.a)))

/-- EXTS64 (44_converter.md R194). -/
def execExts64 (s : State) : Result := unlessFaulted s (s.respondOne (sext (low 64 s.now.a)))

end Sys2Proof.Machine
end

