-- ==== Sys2Proof/Machine/Divider.lean ====
section
/-! DEFINITION. The DIVIDER family: quotient and remainder; the three commands differ only at divisor zero
(42_divider.md). -/

namespace Sys2Proof.Machine

/-- DIVMOD (42_divider.md R141): divisor zero is the recoverable error DIV_DOMAIN. -/
def execDivmod (s : State) : Result := unlessFaulted s (divideOr .divDomain s)

/-- TRYDIVMOD (42_divider.md R142): divisor zero is the recoverable error DIV_NOVALUE. -/
def execTrydivmod (s : State) : Result := unlessFaulted s (divideOr .divNoValue s)

/-- UDIVMOD (42_divider.md R143): divisor zero is the sticky fault UB_DIVZERO. -/
def execUdivmod (s : State) : Result := unlessFaulted s (divideOr .ubDivZero s)

end Sys2Proof.Machine
end

