-- ==== Sys2Proof/Machine/Multiplier.lean ====
section
/-! DEFINITION. The MULTIPLIER family: the widening and the truncating multiply (41_multiplier.md). -/

namespace Sys2Proof.Machine

/-- MULW64 (41_multiplier.md R120): the exact product of the low limbs. -/
def execMulw64 (s : State) : Result :=
  unlessFaulted s (s.respondOne (BitVec.ofNat 128 ((lowLimb s.now.a).toNat * (lowLimb s.now.b).toNat)))

/-- MUL128 (41_multiplier.md R122): the product mod 2^128; overflow is not reported (90_conflicts.md C2). -/
def execMul128 (s : State) : Result :=
  unlessFaulted s (s.respondOne (BitVec.ofNat 128 (s.now.a.toNat * s.now.b.toNat)))

end Sys2Proof.Machine
end

