-- ==== Sys2Proof/Machine/Shifter.lean ====
section
/-! DEFINITION. The SHIFTER family: logical shifts by port `b` or by SHAMT (43_shifter.md). -/

namespace Sys2Proof.Machine

/-- SHL (43_shifter.md R160). -/
def execShl (s : State) : Result := unlessFaulted s (shiftByPort shiftLeft s)

/-- SHR (43_shifter.md R161). -/
def execShr (s : State) : Result := unlessFaulted s (shiftByPort shiftRight s)

/-- SHLI (43_shifter.md R162). -/
def execShli (n : Nat) (s : State) : Result := unlessFaulted s (s.respondOne (shiftLeft s.now.a n))

/-- SHRI (43_shifter.md R163). -/
def execShri (n : Nat) (s : State) : Result := unlessFaulted s (s.respondOne (shiftRight s.now.a n))

end Sys2Proof.Machine
end

