-- ==== Sys2Proof/Machine/System.lean ====
section
/-! DEFINITION. The SYSTEM family: the configuration read (45_system.md). -/

namespace Sys2Proof.Machine

/-- RDCFG (45_system.md R200): CFG[6:0], zero-extended; no port is read. -/
def execRdcfg (s : State) : Result := unlessFaulted s (s.respondOne (zext (cfgLayout s.cfg)))

end Sys2Proof.Machine
end

