-- ==== Sys2Proof/Machine/Dispatch.lean ====
section
/-! DEFINITION. The dispatch of a decoded command to its meaning (30_encoding.md R66; 60_exceptions.md R222 case 3). -/

namespace Sys2Proof.Machine

def exec (i : Instr) (s : State) : Host.Outcome State Fault Refusal :=
  match i with
  | .addc128 sel => Sys2Proof.Machine.execAddc128 sel s
  | .subb128 sel => Sys2Proof.Machine.execSubb128 sel s
  | .addc64 sel => Sys2Proof.Machine.execAddc64 sel s
  | .subb64 sel => Sys2Proof.Machine.execSubb64 sel s
  | .mulw64 => Sys2Proof.Machine.execMulw64 s
  | .mul128 => Sys2Proof.Machine.execMul128 s
  | .divmod => Sys2Proof.Machine.execDivmod s
  | .trydivmod => Sys2Proof.Machine.execTrydivmod s
  | .udivmod => Sys2Proof.Machine.execUdivmod s
  | .shl => Sys2Proof.Machine.execShl s
  | .shr => Sys2Proof.Machine.execShr s
  | .shli n => Sys2Proof.Machine.execShli n s
  | .shri n => Sys2Proof.Machine.execShri n s
  | .pack => Sys2Proof.Machine.execPack s
  | .split => Sys2Proof.Machine.execSplit s
  | .frombLe => Sys2Proof.Machine.execFrombLe s
  | .frombBe => Sys2Proof.Machine.execFrombBe s
  | .frombNat => Sys2Proof.Machine.execFrombNat s
  | .extz8 => Sys2Proof.Machine.execExtz8 s
  | .extz16 => Sys2Proof.Machine.execExtz16 s
  | .extz32 => Sys2Proof.Machine.execExtz32 s
  | .extz64 => Sys2Proof.Machine.execExtz64 s
  | .exts8 => Sys2Proof.Machine.execExts8 s
  | .exts16 => Sys2Proof.Machine.execExts16 s
  | .exts32 => Sys2Proof.Machine.execExts32 s
  | .exts64 => Sys2Proof.Machine.execExts64 s
  | .rdcfg => Sys2Proof.Machine.execRdcfg s

end Sys2Proof.Machine
end

