-- ==== Sys2Proof/Machine/Host.lean ====
section
/-! DEFINITION. The boundary to the host: the output ports (10_state.md R27), acceptance of a command
(70_reset_and_hazards.md R254), the host fault of a read of NONE (60_exceptions.md R228), and the host's next move (R260). -/

namespace Sys2Proof.Machine

/-- The output ports (10_state.md R27). `r` and `r2` show a value only while the register holds one; `none` is the port
value the spec leaves unspecified, which no host may use (60_exceptions.md R228). -/
structure OutputPorts where
  r        : Option Word
  rValid   : Bool
  r2       : Option Word
  r2Valid  : Bool
  cout     : Bit
  status   : BitVec 4
  cmdReady : Bool
  deriving DecidableEq, Repr

/-- `cmd_ready` between commands: 1 unless reset is applied, also when the CORE is faulted (70_reset_and_hazards.md R250,
R256). -/
def cmdReady (s : State) : Bool := !s.now.rst

/-- What the output ports show (10_state.md R27). -/
def outputs (s : State) : OutputPorts :=
  { r := s.r, rValid := s.r.isSome, r2 := s.r2, r2Valid := s.r2.isSome, cout := s.cout, status := s.status,
    cmdReady := cmdReady s }

/-- The CORE accepts a command when cmd_valid = 1, cmd_ready = 1 and rst = 0 (70_reset_and_hazards.md R254). -/
def accepts (s : State) : Bool := s.now.cmdValid && cmdReady s && !s.now.rst

/-- The host fault at this moment, if any: a read of a port whose register holds no value (60_exceptions.md R228). A host
read sees the response of the last ended command and comes before the next is accepted (20_memory.md R46; log 4). -/
def hostReadFault (s : State) : Option Fault :=
  if s.now.readsR && s.r.isNone then some .readOfR
  else if s.now.readsR2 && s.r2.isNone then some .readOfR2
  else none

/-- The host's move after its last listed one (log 5): it offers no command, applies no reset, reads nothing, and leaves
the data ports as they are. -/
def HostMove.release (m : HostMove) : HostMove :=
  { m with cmdValid := false, rst := false, readsR := false, readsR2 := false }

/-- The host makes its next move (log 5). -/
def State.advance (s : State) : State :=
  match s.upcoming with
  | [] => { s with now := s.now.release }
  | m :: rest => { s with now := m, upcoming := rest }

/-- An outcome after which the host makes its next move. -/
def thenAdvance : Result → Result
  | .next s => .next s.advance
  | .fault f => .fault f
  | .refused c => .refused c

/-- The host offers the command word `w` at this moment, on the data ports as they are: cmd_valid = 1, rst = 0, and no
read stands before it. -/
def HostMove.offer (m : HostMove) (w : CmdWord) : HostMove :=
  { m with cmd := w, cmdValid := true, rst := false, readsR := false, readsR2 := false }

end Sys2Proof.Machine
end

