-- ==== Sys2Proof/Machine/Moment.lean ====
section
/-! DEFINITION. What the CORE does at one moment: reset, running an accepted command word, or nothing (10_state.md R20;
60_exceptions.md R222; 70_reset_and_hazards.md R250, R254). -/

namespace Sys2Proof.Machine

/-- Run the command word on port `cmd` (30_encoding.md R69; 60_exceptions.md R222). That a faulted CORE does nothing
(case 1) is in every meaning and in `raiseIllegal`, so the order of the two tests does not show. -/
def runWord (s : State) : Result :=
  match decode s.now.cmd with
  | some i => exec i s
  | none => raiseIllegal s

/-- The CORE at this moment: reset while rst = 1 (70_reset_and_hazards.md R250), else the accepted command (R254), else
nothing: it is idle whenever no command is offered (60_exceptions.md R234). -/
def coreMoment (s : State) : Result :=
  if s.now.rst then .next s.applyReset
  else if accepts s then runWord s
  else .next s

end Sys2Proof.Machine
end

