-- ==== Sys2Proof/Machine/Step.lean ====
section
/-! DEFINITION. One step: the host's reads, then the CORE's act on the port levels, then the host's next move (log 3, log
4, log 5). A command is accepted, runs and ends within one step (10_state.md R20; 20_memory.md R46). -/

namespace Sys2Proof.Machine

def step (s : State) : Host.Outcome State Fault Refusal :=
  match hostReadFault s with
  | some f => .fault f
  | none => thenAdvance (coreMoment s)

/-- `s` with the host offering an instruction word: port `cmd` holds it, cmd_valid = 1, rst = 0, and no host read stands
before it (log 6). Every other field stays. -/
def State.withFetchWord (s : State) (nbits w : Nat) : State :=
  { s with now := s.now.offer (BitVec.ofNat 32 (w % 2 ^ nbits)) }

end Sys2Proof.Machine
end

