-- ==== Sys2Proof/Machine/HostProgram.lean ====
section
/-! DEFINITION. The host's side of a program: ISSUE lines and their assembler text (30_encoding.md R71), the
pseudo-commands (R72), and issuing one command and reading its result (70_reset_and_hazards.md R260). Control flow is the
host's (10_state.md R21), so a program is no more here than a list of moves. -/

namespace Sys2Proof.Machine

/-- The suffix of a carry select (30_encoding.md R71). -/
def carrySuffix : CarrySel → String
  | .zero => ".z"
  | .port => ".p"
  | .chain => ".c"

/-- A command as the assembler writes it and a disassembler prints it (30_encoding.md R66, R71, R72). -/
def assembly : Instr → String
  | .addc128 sel => "ADDC128" ++ carrySuffix sel
  | .subb128 sel => "SUBB128" ++ carrySuffix sel
  | .addc64 sel => "ADDC64" ++ carrySuffix sel
  | .subb64 sel => "SUBB64" ++ carrySuffix sel
  | .mulw64 => "MULW64"
  | .mul128 => "MUL128"
  | .divmod => "DIVMOD"
  | .trydivmod => "TRYDIVMOD"
  | .udivmod => "UDIVMOD"
  | .shl => "SHL"
  | .shr => "SHR"
  | .shli n => "SHLI #" ++ toString n
  | .shri n => "SHRI #" ++ toString n
  | .pack => "PACK"
  | .split => "SPLIT"
  | .frombLe => "FROMB.LE"
  | .frombBe => "FROMB.BE"
  | .frombNat => "FROMB.NAT"
  | .extz8 => "EXTZ8"
  | .extz16 => "EXTZ16"
  | .extz32 => "EXTZ32"
  | .extz64 => "EXTZ64"
  | .exts8 => "EXTS8"
  | .exts16 => "EXTS16"
  | .exts32 => "EXTS32"
  | .exts64 => "EXTS64"
  | .rdcfg => "RDCFG"

/-- An ISSUE line (30_encoding.md R71): a command and the ports it names, `none` for a port the line leaves out. -/
structure IssueLine where
  command : Instr
  a       : Option Int
  b       : Option Int
  cin     : Option Int
  deriving DecidableEq, Repr

/-- A port level after an ISSUE line: `bits_n(value)` where the line names the port (30_encoding.md R71). Where it leaves
the port out, the level it had: DESIGN CHOICE (log 14), since R71 calls the value of an omitted unread port unconstrained
and lets a line omit no port that its command reads. -/
def placeOn {n : Nat} (level : BitVec n) : Option Int → BitVec n
  | some value => BitVec.ofInt n value
  | none => level

/-- The host's move for an ISSUE line (30_encoding.md R71), from the levels the ports have, which a port the line leaves
out keeps (log 14). -/
def HostMove.issueLine (m : HostMove) (issue : IssueLine) : HostMove :=
  { m.offer (encode issue.command) with
      a := placeOn m.a issue.a, b := placeOn m.b issue.b, cin := placeOn m.cin issue.cin }

/-- The pseudo-commands (30_encoding.md R72). -/
inductive Pseudo where
  | add
  | sub
  | neg
  | inc
  | dec
  | pos
  | div
  | mod
  | tobLe
  | tobBe
  | tobNat
  | trunc8
  | trunc16
  | trunc32
  | trunc64
  deriving DecidableEq, Repr

/-- The real command a pseudo-command stands for, with `a=x` and `b=y` written in the pseudo-command; a one-operand
pseudo-command ignores `y` (30_encoding.md R72). -/
def Pseudo.expand (p : Pseudo) (x y : Int) : IssueLine :=
  match p with
  | .add     => { command := .addc128 .zero, a := some x, b := some y, cin := none }
  | .sub     => { command := .subb128 .zero, a := some x, b := some y, cin := none }
  | .neg     => { command := .subb128 .zero, a := some 0, b := some x, cin := none }
  | .inc     => { command := .addc128 .zero, a := some x, b := some 1, cin := none }
  | .dec     => { command := .subb128 .zero, a := some x, b := some 1, cin := none }
  | .pos     => { command := .addc128 .zero, a := some x, b := some 0, cin := none }
  | .div     => { command := .divmod, a := some x, b := some y, cin := none }
  | .mod     => { command := .divmod, a := some x, b := some y, cin := none }
  | .tobLe   => { command := .frombLe, a := some x, b := none, cin := none }
  | .tobBe   => { command := .frombBe, a := some x, b := none, cin := none }
  | .tobNat  => { command := .frombNat, a := some x, b := none, cin := none }
  | .trunc8  => { command := .extz8, a := some x, b := none, cin := none }
  | .trunc16 => { command := .extz16, a := some x, b := none, cin := none }
  | .trunc32 => { command := .extz32, a := some x, b := none, cin := none }
  | .trunc64 => { command := .extz64, a := some x, b := none, cin := none }

/-- The state with operands `x` and `y` on ports `a` and `b`. -/
def State.withOperands (s : State) (x y : Word) : State := { s with now := { s.now with a := x, b := y } }

/-- The host issues one command with operands `x` and `y`, waits for its end, and reads R: the value and the state after
the command, or `none` when R holds no value then (70_reset_and_hazards.md R260). -/
def issueAndRead (i : Instr) (x y : Word) (s : State) : Option (Word × State) :=
  match step { s with now := { s.now.offer (encode i) with a := x, b := y } } with
  | .next t => t.r.map fun v => (v, t)
  | .fault _ => none
  | .refused _ => none

/-- The host's loop over the limbs of two long operands, least significant limb first: `op sel` on the first pair and
`op .chain` back to back on the rest (40_adder.md R105, R258). It gives the results read, and the state at the end. -/
def chainLimbs (op : CarrySel → Instr) : CarrySel → List (Word × Word) → State → Option (List Word × State)
  | _, [], s => some ([], s)
  | sel, (x, y) :: rest, s =>
    match issueAndRead (op sel) x y s with
    | some (v, t) => (chainLimbs op .chain rest t).map fun p => (v :: p.1, p.2)
    | none => none

/-- The number that a list of limbs of `n` bits stands for, least significant limb first. -/
def limbsValue (n : Nat) : List Nat → Nat
  | [] => 0
  | d :: rest => d + 2 ^ n * limbsValue n rest

end Sys2Proof.Machine
end

