-- ==== Sys2Proof/Machine/Reference.lean ====
section
/-! DEFINITION. The spec's reference algorithms, which no meaning uses: they are informative (00_scope.md R11) and the
obligations state that each gives the result of its command (40_adder.md R104; 41_multiplier.md R121, R123;
42_divider.md R144, R145). -/

namespace Sys2Proof.Machine

/-- ADDC128 as two limb adds, the low limb's carry feeding the high limb (40_adder.md R104). -/
def addByLimbs (a b : Word) (c : Bit) : Word × Bit :=
  let lo := addWithCarry (lowLimb a) (lowLimb b) c
  let hi := addWithCarry (highLimb a) (highLimb b) lo.2
  (hi.1 ++ lo.1, hi.2)

/-- SUBB128 as two limb subtracts (40_adder.md R104). -/
def subByLimbs (a b : Word) (c : Bit) : Word × Bit :=
  let lo := subWithBorrow (lowLimb a) (lowLimb b) c
  let hi := subWithBorrow (highLimb a) (highLimb b) lo.2
  (hi.1 ++ lo.1, hi.2)

/-- MULW64 from four 32x32 partial products (41_multiplier.md R121; how they combine is the spec's general knowledge,
93_implementation_defined.md G1). -/
def schoolbook (x y : Limb) : Word :=
  let a0 := x.toNat % 2 ^ 32
  let a1 := x.toNat / 2 ^ 32
  let b0 := y.toNat % 2 ^ 32
  let b1 := y.toNat / 2 ^ 32
  let p00 := a0 * b0
  let p01 := a0 * b1
  let p10 := a1 * b0
  let p11 := a1 * b1
  let mid := p00 / 2 ^ 32 + p10 % 2 ^ 32 + p01 % 2 ^ 32
  let lo := BitVec.ofNat 64 (mid * 2 ^ 32 + p00 % 2 ^ 32)
  let hi := BitVec.ofNat 64 (p11 + p10 / 2 ^ 32 + p01 / 2 ^ 32 + mid / 2 ^ 32)
  hi ++ lo

/-- MUL128 from one widening multiply and the low halves of the cross products (41_multiplier.md R123). -/
def multiplyByLimbs (a b : Word) : Word :=
  let ll := (lowLimb a).toNat * (lowLimb b).toNat
  let cross := BitVec.ofNat 64 ((highLimb a).toNat * (lowLimb b).toNat + (lowLimb a).toNat * (highLimb b).toNat)
  BitVec.ofNat 128 (ll + cross.toNat * 2 ^ 64)

/-- One round of restoring division at bit `i`: the quotient so far and the partial remainder (42_divider.md R144). -/
def restoringRound (a : Word) (divisor i : Nat) (qr : Nat × Nat) : Nat × Nat :=
  let rem := 2 * qr.2 + (a.getLsbD i).toNat
  if divisor ≤ rem then (qr.1 + 2 ^ i, rem - divisor) else (qr.1, rem)

/-- The rounds for bits `k-1` down to 0 (42_divider.md R144). -/
def restoringRounds (a : Word) (divisor : Nat) : Nat → Nat × Nat → Nat × Nat
  | 0, qr => qr
  | i + 1, qr => restoringRounds a divisor i (restoringRound a divisor i qr)

/-- Restoring long division over the full width (42_divider.md R144; the loop is the spec's general knowledge,
93_implementation_defined.md G2). -/
def restoringDivide (a b : Word) : Word × Word :=
  let qr := restoringRounds a b.toNat 128 (0, 0)
  (BitVec.ofNat 128 qr.1, BitVec.ofNat 128 qr.2)

/-- Division by a divisor below 2^64 in two 128-by-64 steps (42_divider.md R145; the reduction is the spec's general
knowledge, 93_implementation_defined.md G3). -/
def divideByLimb (a b : Word) : Word × Word :=
  let qh := (highLimb a).toNat / b.toNat
  let r1 := (highLimb a).toNat % b.toNat
  let ql := (r1 * 2 ^ 64 + (lowLimb a).toNat) / b.toNat
  let rem := (r1 * 2 ^ 64 + (lowLimb a).toNat) % b.toNat
  (BitVec.ofNat 64 qh ++ BitVec.ofNat 64 ql, zext (BitVec.ofNat 64 rem))

end Sys2Proof.Machine
end

