-- ==== Sys2Proof/Safety.lean ====
section
/-! DEFINITION. The terms claims use: the CORE's response, the host's duty, and the invariant of the response registers. -/

namespace Sys2Proof.Machine

/-- What the host can read after a command: R, R2, COUT, STATUS (10_state.md R28). -/
structure Response where
  r      : Option Word
  r2     : Option Word
  cout   : Bit
  status : BitVec 4
  deriving DecidableEq, Repr

/-- The response registers of a state. -/
def State.response (s : State) : Response := { r := s.r, r2 := s.r2, cout := s.cout, status := s.status }

/-- The host keeps its duty at this moment: it reads only ports whose register holds a value (70_reset_and_hazards.md
R260; 60_exceptions.md R228). -/
def State.hostReadsHeld (s : State) : Prop :=
  (s.now.readsR = true → s.r.isSome = true) ∧ (s.now.readsR2 = true → s.r2.isSome = true)

/-- The response registers hold what some outcome wrote (60_exceptions.md R220, R226; 10_state.md R30, R33):
STATUS is one of the six codes; R and R2 hold values together; a STATUS other than OK leaves no value and COUT 0, and so
does a state without values; a carry out stands only beside R2 = 0. -/
structure State.Coherent (s : State) : Prop where
  code       : s.status ∈ [0x0#4, 0x1#4, 0x2#4, 0x8#4, 0x9#4, 0xA#4]
  together   : s.r.isSome = s.r2.isSome
  noStale    : s.status ≠ 0x0#4 → s.r = none
  emptyCarry : s.r = none → s.cout = 0#1
  carryAlone : s.cout = 1#1 → s.r2 = some 0#128

/-- The configuration is one a CORE can be built with (10_state.md R22). -/
def State.CfgLegal (s : State) : Prop := s.cfg.legal = true

/-- The states of a machine that obeys the spec: coherent registers and a legal configuration. -/
def State.Inv (s : State) : Prop := s.Coherent ∧ s.CfgLegal

/-- The R a command leaves, none where it leaves no value or does not go on. -/
def resultOf (i : Instr) (s : State) : Option Word :=
  match exec i s with
  | .next t => t.r
  | .fault _ => none
  | .refused _ => none

/-- The R2 a command leaves. -/
def secondResultOf (i : Instr) (s : State) : Option Word :=
  match exec i s with
  | .next t => t.r2
  | .fault _ => none
  | .refused _ => none

/-- The response a command leaves, none where it does not go on. -/
def responseOf (i : Instr) (s : State) : Option Response :=
  match exec i s with
  | .next t => some t.response
  | .fault _ => none
  | .refused _ => none

end Sys2Proof.Machine
end

