-- ==== Sys2Proof/Certificates/Slice0/Obligations.lean ====
section
/-! DEFINITION. The statements for the provers, each a rule of spec/ or derived from its rules. "Live" states are those
whose STATUS[3] is 0; what a command does in a faulted state is `FaultedCommandsHaveNoEffect`. The helpers under
Sys2Proof.Spec write the spec's own tables and sums out, apart from the definitions of the machine. -/

open Sys2Proof Sys2Proof.Machine

namespace Sys2Proof.Spec

/-- The opcodes of the format N rows (30_encoding.md R66). -/
def opcodesN : List Nat :=
  [0x10, 0x11, 0x20, 0x21, 0x22, 0x30, 0x31, 0x40, 0x41, 0x42, 0x43, 0x44] ++
  [0x48, 0x49, 0x4A, 0x4B, 0x4C, 0x4D, 0x4E, 0x4F, 0xF0]

/-- The opcodes of the format C rows (30_encoding.md R66). -/
def opcodesC : List Nat := [0x01, 0x02, 0x03, 0x04]

/-- The opcodes of the format S rows (30_encoding.md R66). -/
def opcodesS : List Nat := [0x32, 0x33]

/-- The four ways a word is illegal (30_encoding.md R67). -/
def illegalWord (w : CmdWord) : Prop :=
  (w.toNat % 256 ∉ opcodesN ∧ w.toNat % 256 ∉ opcodesC ∧ w.toNat % 256 ∉ opcodesS) ∨
  (w.toNat % 256 ∈ opcodesN ∧ w.toNat / 2 ^ 8 ≠ 0) ∨
  (w.toNat % 256 ∈ opcodesC ∧ (w.toNat / 2 ^ 10 ≠ 0 ∨ w.toNat / 2 ^ 8 % 4 = 3)) ∨
  (w.toNat % 256 ∈ opcodesS ∧ w.toNat / 2 ^ 15 ≠ 0)

/-- CSEL's number for a carry select (30_encoding.md R63). -/
def cselNumber : CarrySel → Nat
  | .zero => 0
  | .port => 1
  | .chain => 2

/-- The integer a byte image stands for in little-endian order, `sum over i of uint(B[i]) * 2^(8i)`, with B[i] cut out of
the value by arithmetic (44_converter.md R183, R184). -/
def littleEndianSum (v : Word) : Nat :=
  ((List.range 16).map fun i => v.toNat / 2 ^ (8 * i) % 256 * 2 ^ (8 * i)).sum

/-- The integer a byte image stands for in big-endian order, `sum over i of uint(B[i]) * 2^(8(15-i))` (44_converter.md
R183, R185). -/
def bigEndianSum (v : Word) : Nat :=
  ((List.range 16).map fun i => v.toNat / 2 ^ (8 * i) % 256 * 2 ^ (8 * (15 - i))).sum

/-- CFG as an integer, weight by weight (10_state.md R22). -/
def cfgNumber (c : Cfg) : Nat :=
  (match c.mode with | .nativeWide => 0 | .intrinsic64 => 1 | .portable => 2) +
  (if c.hasNative128 then 4 else 0) + (if c.hasAdc then 8 else 0) + (if c.hasMul64 then 16 else 0) +
  (if c.hasDiv128by64 then 32 else 0) + (if c.byteOrder = .be then 64 else 0)

/-- The STATUS a decoded command leaves when the CORE is not faulted (60_exceptions.md R220). -/
def statusAfter (i : Instr) (s : State) : BitVec 4 :=
  match i with
  | .divmod => if s.now.b.toNat = 0 then 0x1#4 else 0x0#4
  | .trydivmod => if s.now.b.toNat = 0 then 0x2#4 else 0x0#4
  | .udivmod => if s.now.b.toNat = 0 then 0x8#4 else 0x0#4
  | .shl => if 128 ≤ s.now.b.toNat then 0x9#4 else 0x0#4
  | .shr => if 128 ≤ s.now.b.toNat then 0x9#4 else 0x0#4
  | _ => 0x0#4

/-- The add and subtract commands, the only ones that write a carry (10_state.md R25). -/
def isAdder : Instr → Bool
  | .addc128 _ => true
  | .subb128 _ => true
  | .addc64 _ => true
  | .subb64 _ => true
  | _ => false

/-- An outcome with `f` applied to the state of `next`. -/
def mapNext (f : State → State) : Result → Result
  | .next t => .next (f t)
  | .fault e => .fault e
  | .refused e => .refused e

/-- The value a pseudo-command of 30_encoding.md R72 leaves (in R2 for MOD, in R for the others), as the source operator
it stands for gives it on 128-bit values; TOB.NAT under BE as log 8 has it. -/
def pseudoValue (p : Pseudo) (order : ByteOrder) (x y : Word) : Word :=
  match p with
  | .add => x + y
  | .sub => x - y
  | .neg => -x
  | .inc => x + 1#128
  | .dec => x - 1#128
  | .pos => x
  | .div => x / y
  | .mod => x % y
  | .tobLe => x
  | .tobBe => BitVec.ofNat 128 (bigEndianSum x)
  | .tobNat => if order = .le then x else BitVec.ofNat 128 (bigEndianSum x)
  | .trunc8 => BitVec.ofNat 128 (x.toNat % 2 ^ 8)
  | .trunc16 => BitVec.ofNat 128 (x.toNat % 2 ^ 16)
  | .trunc32 => BitVec.ofNat 128 (x.toNat % 2 ^ 32)
  | .trunc64 => BitVec.ofNat 128 (x.toNat % 2 ^ 64)

/-- The exact sum ADDC128 is about (40_adder.md R102). -/
def sum128 (sel : CarrySel) (s : State) : Nat := s.now.a.toNat + s.now.b.toNat + (carryIn sel s).toNat

/-- The exact difference SUBB128 is about (40_adder.md R103). -/
def difference128 (sel : CarrySel) (s : State) : Int :=
  (s.now.a.toNat : Int) - s.now.b.toNat - (carryIn sel s).toNat

/-- The exact sum ADDC64 is about: the low 64 bits of each port (40_adder.md R100). -/
def sum64 (sel : CarrySel) (s : State) : Nat :=
  s.now.a.toNat % 2 ^ 64 + s.now.b.toNat % 2 ^ 64 + (carryIn sel s).toNat

/-- The exact difference SUBB64 is about (40_adder.md R101). -/
def difference64 (sel : CarrySel) (s : State) : Int :=
  ((s.now.a.toNat % 2 ^ 64 : Nat) : Int) - (s.now.b.toNat % 2 ^ 64 : Nat) - (carryIn sel s).toNat

end Sys2Proof.Spec

/-! ### Reset, the step, and the host -/

/-- 10_state.md R33 and 70_reset_and_hazards.md R250: the reset values, the reset event at any moment, no acceptance while
rst = 1, and no write of the registers without a command or a reset. (Nothing is said of the host's fields.) -/
def Obligations.ResetLeavesNoValueAndOk : Prop :=
  (State.reset.r = none ∧ State.reset.r2 = none ∧ State.reset.cout = 0#1 ∧ State.reset.status = 0x0#4 ∧
    State.reset.faulted = false ∧ State.reset.cfg = Config.build) ∧
  (∀ s : State, s.now.rst = true → cmdReady s = false ∧ accepts s = false ∧
    (s.hostReadsHeld → ∃ t, step s = .next t ∧ t.r = none ∧ t.r2 = none ∧ t.cout = 0#1 ∧ t.status = 0x0#4 ∧
      t.faulted = false ∧ t.cfg = s.cfg)) ∧
  (∀ s : State, s.now.rst = false → s.now.cmdValid = false → s.hostReadsHeld →
    ∃ t, step s = .next t ∧ t.response = s.response ∧ t.cfg = s.cfg)

/-- A step runs the decoded command: when the host keeps its read duty, applies no reset and offers a word, the step is the
run of that word and then the host's next move, and a word that decodes to `i` runs `exec i` at that state (60_exceptions.md
R222, 70_reset_and_hazards.md R254; that a command ends within its step and that the host then moves on is the model's
choice, log 3 and log 5). -/
def Obligations.StepRunsTheDecodedCommand : Prop :=
  ∀ s : State, s.hostReadsHeld → s.now.rst = false → s.now.cmdValid = true →
    step s = Spec.mapNext State.advance (runWord s) ∧
    (∀ i : Instr, decode s.now.cmd = some i →
      step s = (match exec i s with
        | .next t => .next t.advance
        | .fault f => .fault f
        | .refused c => .refused c))

/-- The host's next move (log 5, the model's choice): its next listed one, or, after the last, the data levels kept with
no command, no reset and no read. -/
def Obligations.HostMovesInListOrder : Prop :=
  (∀ (s : State) (m : HostMove) (rest : List HostMove), s.upcoming = m :: rest →
    s.advance = { s with now := m, upcoming := rest }) ∧
  (∀ s : State, s.upcoming = [] →
    s.advance = { s with now := { s.now with cmdValid := false, rst := false, readsR := false, readsR2 := false } })

/-- 60_exceptions.md R222: the three cases of running a word, in their order; in the third, the command's one operand
condition decides the outcome. -/
def Obligations.FaultedThenIllegalThenCommand : Prop :=
  ∀ s : State,
    (s.status.getLsbD 3 = true → runWord s = .next s) ∧
    (s.status.getLsbD 3 = false → decode s.now.cmd = none →
      runWord s = .next { s with r := none, r2 := none, cout := 0#1, status := 0xA#4 }) ∧
    (s.status.getLsbD 3 = false → ∀ i, decode s.now.cmd = some i →
      ∃ t, exec i s = .next t ∧ runWord s = .next t ∧ t.status = Spec.statusAfter i s)

/-- 60_exceptions.md R228, with the order of the two reads the model's choice (log 4): a step stops exactly where the host
reads a register that holds no value, and it is never refused. -/
def Obligations.StepStopsExactlyOnReadOfNone : Prop :=
  ∀ s : State,
    (step s = .fault .readOfR ↔ s.now.readsR = true ∧ s.r = none) ∧
    (step s = .fault .readOfR2 ↔
      ¬(s.now.readsR = true ∧ s.r = none) ∧ s.now.readsR2 = true ∧ s.r2 = none) ∧
    (∀ c, step s ≠ .refused c) ∧
    ((∃ t, step s = .next t) ↔ s.hostReadsHeld)

/-! ### Encoding -/

/-- 30_encoding.md R67: a word decodes to no command exactly when it is illegal, and an illegal word raises ILLEGAL,
whatever the ports hold. -/
def Obligations.IllegalWordsAreExactlyThese : Prop :=
  (∀ w : CmdWord, decode w = none ↔ Spec.illegalWord w) ∧
  (∀ s : State, s.faulted = false → Spec.illegalWord s.now.cmd →
    runWord s = .next { s with r := none, r2 := none, cout := 0#1, status := 0xA#4 })

/-- 30_encoding.md R66: the opcode map, every row at every CSEL and SHAMT, and only with reserved bits 0 and CSEL not
11. -/
def Obligations.OpcodeMapSelectsCommands : Prop :=
  (∀ sel : CarrySel,
    decode (BitVec.ofNat 32 (0x01 + 256 * Spec.cselNumber sel)) = some (.addc128 sel) ∧
    decode (BitVec.ofNat 32 (0x02 + 256 * Spec.cselNumber sel)) = some (.subb128 sel) ∧
    decode (BitVec.ofNat 32 (0x03 + 256 * Spec.cselNumber sel)) = some (.addc64 sel) ∧
    decode (BitVec.ofNat 32 (0x04 + 256 * Spec.cselNumber sel)) = some (.subb64 sel)) ∧
  (decode 0x10#32 = some .mulw64 ∧ decode 0x11#32 = some .mul128 ∧ decode 0x20#32 = some .divmod ∧
    decode 0x21#32 = some .trydivmod ∧ decode 0x22#32 = some .udivmod ∧ decode 0x30#32 = some .shl ∧
    decode 0x31#32 = some .shr) ∧
  (∀ n : Nat, n ≤ 127 →
    decode (BitVec.ofNat 32 (0x32 + 256 * n)) = some (.shli n) ∧
    decode (BitVec.ofNat 32 (0x33 + 256 * n)) = some (.shri n)) ∧
  (decode 0x40#32 = some .pack ∧ decode 0x41#32 = some .split ∧ decode 0x42#32 = some .frombLe ∧
    decode 0x43#32 = some .frombBe ∧ decode 0x44#32 = some .frombNat ∧ decode 0x48#32 = some .extz8 ∧
    decode 0x49#32 = some .extz16 ∧ decode 0x4A#32 = some .extz32 ∧ decode 0x4B#32 = some .extz64 ∧
    decode 0x4C#32 = some .exts8 ∧ decode 0x4D#32 = some .exts16 ∧ decode 0x4E#32 = some .exts32 ∧
    decode 0x4F#32 = some .exts64 ∧ decode 0xF0#32 = some .rdcfg) ∧
  (∀ w : CmdWord, (decode w).isSome = true →
    (w.toNat % 256 ∈ Spec.opcodesN ∧ w.toNat / 2 ^ 8 = 0) ∨
    (w.toNat % 256 ∈ Spec.opcodesC ∧ w.toNat / 2 ^ 10 = 0 ∧ w.toNat / 2 ^ 8 % 4 ≠ 3) ∨
    (w.toNat % 256 ∈ Spec.opcodesS ∧ w.toNat / 2 ^ 15 = 0))

/-- Decode and encode agree in both directions (30_encoding.md R61, R66, R69): every well-formed command is read back from
its word with every operand, and every word that decodes is the word of the command it decodes to. -/
def Obligations.DecodeAndEncodeAreInverse : Prop :=
  (∀ i : Instr, i.wellFormed = true → decode (encode i) = some i) ∧
  (∀ (w : CmdWord) (i : Instr), decode w = some i → i.wellFormed = true ∧ encode i = w)

/-- Words written out from 30_encoding.md R73, R66 and 95_test_vectors.md L2.7, one or more of every family. -/
def Obligations.WrittenWordsDecode : Prop :=
  decode 0x00000101#32 = some (.addc128 .port) ∧ decode 0x00000204#32 = some (.subb64 .chain) ∧
  decode 0x00000010#32 = some .mulw64 ∧ decode 0x00000021#32 = some .trydivmod ∧
  decode 0x00007F32#32 = some (.shli 127) ∧ decode 0x00000133#32 = some (.shri 1) ∧
  decode 0x0000004D#32 = some .exts16 ∧ decode 0x000000F0#32 = some .rdcfg ∧
  decode 0x00000301#32 = none ∧ decode 0x00000110#32 = none ∧ decode 0x00008032#32 = none ∧ decode 0x00000000#32 = none

/-- 30_encoding.md R63: what each CSEL selects, and that CSEL = 11 is illegal in every format C command. -/
def Obligations.CarrySelectField : Prop :=
  (∀ s : State, carryIn .zero s = 0#1 ∧ carryIn .port s = s.now.cin ∧ carryIn .chain s = s.cout) ∧
  (∀ opc ∈ Spec.opcodesC,
    (∃ op : CarrySel → Instr, op ∈ [.addc128, .subb128, .addc64, .subb64] ∧
      decode (BitVec.ofNat 32 opc) = some (op .zero) ∧
      decode (BitVec.ofNat 32 (opc + 0x100)) = some (op .port) ∧
      decode (BitVec.ofNat 32 (opc + 0x200)) = some (op .chain)) ∧
    decode (BitVec.ofNat 32 (opc + 0x300)) = none)

/-! ### ADDER -/

/-- 40_adder.md R102. -/
def Obligations.Addc128WritesSumAndCarry : Prop :=
  (decode 0x00000001#32 = some (.addc128 .zero) ∧ decode 0x00000101#32 = some (.addc128 .port) ∧
    decode 0x00000201#32 = some (.addc128 .chain)) ∧
  ∀ (sel : CarrySel) (s : State), s.faulted = false →
    exec (.addc128 sel) s = .next { s with
      r := some (BitVec.ofNat 128 (Spec.sum128 sel s)), r2 := some 0#128,
      cout := if Spec.sum128 sel s ≥ 2 ^ 128 then 1#1 else 0#1, status := 0x0#4 }

/-- 40_adder.md R103. -/
def Obligations.Subb128WritesDifferenceAndBorrow : Prop :=
  (decode 0x00000002#32 = some (.subb128 .zero) ∧ decode 0x00000102#32 = some (.subb128 .port) ∧
    decode 0x00000202#32 = some (.subb128 .chain)) ∧
  ∀ (sel : CarrySel) (s : State), s.faulted = false →
    exec (.subb128 sel) s = .next { s with
      r := some (BitVec.ofInt 128 (Spec.difference128 sel s)), r2 := some 0#128,
      cout := if Spec.difference128 sel s < 0 then 1#1 else 0#1, status := 0x0#4 }

/-- 40_adder.md R100. -/
def Obligations.Addc64WritesLimbSumAndCarry : Prop :=
  (decode 0x00000003#32 = some (.addc64 .zero) ∧ decode 0x00000103#32 = some (.addc64 .port) ∧
    decode 0x00000203#32 = some (.addc64 .chain)) ∧
  ∀ (sel : CarrySel) (s : State), s.faulted = false →
    exec (.addc64 sel) s = .next { s with
      r := some (BitVec.ofNat 128 (Spec.sum64 sel s % 2 ^ 64)), r2 := some 0#128,
      cout := if Spec.sum64 sel s ≥ 2 ^ 64 then 1#1 else 0#1, status := 0x0#4 }

/-- 40_adder.md R101. -/
def Obligations.Subb64WritesLimbDifferenceAndBorrow : Prop :=
  (decode 0x00000004#32 = some (.subb64 .zero) ∧ decode 0x00000104#32 = some (.subb64 .port) ∧
    decode 0x00000204#32 = some (.subb64 .chain)) ∧
  ∀ (sel : CarrySel) (s : State), s.faulted = false →
    exec (.subb64 sel) s = .next { s with
      r := some (BitVec.ofInt 128 (Spec.difference64 sel s % 2 ^ 64)), r2 := some 0#128,
      cout := if Spec.difference64 sel s < 0 then 1#1 else 0#1, status := 0x0#4 }

/-- The pair (COUT, R) is exact (40_adder.md, Laws of the family): no sum or difference loses anything. -/
def Obligations.CarryAndResultAreExact : Prop :=
  ∀ (sel : CarrySel) (s : State), s.faulted = false →
    (∃ v c, exec (.addc128 sel) s = .next { s with r := some v, r2 := some 0#128, cout := c, status := 0x0#4 } ∧
      c.toNat * 2 ^ 128 + v.toNat = s.now.a.toNat + s.now.b.toNat + (carryIn sel s).toNat) ∧
    (∃ v c, exec (.subb128 sel) s = .next { s with r := some v, r2 := some 0#128, cout := c, status := 0x0#4 } ∧
      s.now.a.toNat + c.toNat * 2 ^ 128 = v.toNat + s.now.b.toNat + (carryIn sel s).toNat) ∧
    (∃ v c, exec (.addc64 sel) s = .next { s with r := some v, r2 := some 0#128, cout := c, status := 0x0#4 } ∧
      v.toNat < 2 ^ 64 ∧ c.toNat * 2 ^ 64 + v.toNat = Spec.sum64 sel s) ∧
    (∃ v c, exec (.subb64 sel) s = .next { s with r := some v, r2 := some 0#128, cout := c, status := 0x0#4 } ∧
      v.toNat < 2 ^ 64 ∧ s.now.a.toNat % 2 ^ 64 + c.toNat * 2 ^ 64 =
        v.toNat + s.now.b.toNat % 2 ^ 64 + (carryIn sel s).toNat)

/-- ADD and SUB are addition and subtraction of the ring of integers mod 2^128, `(a + b) - b = a`, and SUB's borrow is the
unsigned comparison (40_adder.md, Laws of the family). -/
def Obligations.AddAndSubAreRingOperations : Prop :=
  ∀ (s : State) (x y : Word), s.faulted = false →
    resultOf (.addc128 .zero) (s.withOperands x y) = some (x + y) ∧
    resultOf (.subb128 .zero) (s.withOperands x y) = some (x - y) ∧
    ((resultOf (.addc128 .zero) (s.withOperands x y)).bind fun v =>
      resultOf (.subb128 .zero) (s.withOperands v y)) = some x ∧
    (responseOf (.addc128 .zero) (s.withOperands x 0#128) = some ⟨some x, some 0#128, 0#1, 0x0#4⟩) ∧
    (responseOf (.subb128 .zero) (s.withOperands x x) = some ⟨some 0#128, some 0#128, 0#1, 0x0#4⟩) ∧
    ((responseOf (.subb128 .zero) (s.withOperands x y)).map Response.cout =
      some (if x.toNat < y.toNat then 1#1 else 0#1))

/-- Chaining (40_adder.md, Laws of the family; 70_reset_and_hazards.md section 4): issued back to back through the
machine's steps, the first limb with CSEL ZERO and the rest with CHAIN, k commands give the exact k-limb sum or
difference, at 128 and at 64 bits, for every k > 0. That each command ends within its step is the model's choice (log 3),
and so is where the reads stand between the steps (log 4). -/
def Obligations.ChainedLimbsGiveLongSumAndDifference : Prop :=
  ∀ (limbs : List (Word × Word)) (s : State), limbs ≠ [] → s.faulted = false →
    (∃ out t, chainLimbs .addc128 .zero limbs s = some (out, t) ∧ out.length = limbs.length ∧
      limbsValue 128 (out.map BitVec.toNat) + 2 ^ (128 * limbs.length) * t.cout.toNat =
        limbsValue 128 (limbs.map fun p => p.1.toNat) + limbsValue 128 (limbs.map fun p => p.2.toNat)) ∧
    (∃ out t, chainLimbs .subb128 .zero limbs s = some (out, t) ∧ out.length = limbs.length ∧
      limbsValue 128 (out.map BitVec.toNat) + limbsValue 128 (limbs.map fun p => p.2.toNat) =
        limbsValue 128 (limbs.map fun p => p.1.toNat) + 2 ^ (128 * limbs.length) * t.cout.toNat) ∧
    (∃ out t, chainLimbs .addc64 .zero limbs s = some (out, t) ∧ out.length = limbs.length ∧
      (∀ v ∈ out, v.toNat < 2 ^ 64) ∧
      limbsValue 64 (out.map BitVec.toNat) + 2 ^ (64 * limbs.length) * t.cout.toNat =
        limbsValue 64 (limbs.map fun p => p.1.toNat % 2 ^ 64) + limbsValue 64 (limbs.map fun p => p.2.toNat % 2 ^ 64)) ∧
    (∃ out t, chainLimbs .subb64 .zero limbs s = some (out, t) ∧ out.length = limbs.length ∧
      (∀ v ∈ out, v.toNat < 2 ^ 64) ∧
      limbsValue 64 (out.map BitVec.toNat) + limbsValue 64 (limbs.map fun p => p.2.toNat % 2 ^ 64) =
        limbsValue 64 (limbs.map fun p => p.1.toNat % 2 ^ 64) + 2 ^ (64 * limbs.length) * t.cout.toNat)

/-- 40_adder.md R104: the composition of two limb-level calls gives the 128-bit commands' R and COUT for every input. -/
def Obligations.LimbCompositionGivesWideAddAndSub : Prop :=
  ∀ (sel : CarrySel) (s : State), s.faulted = false →
    exec (.addc128 sel) s = .next { s with
      r := some (addByLimbs s.now.a s.now.b (carryIn sel s)).1, r2 := some 0#128,
      cout := (addByLimbs s.now.a s.now.b (carryIn sel s)).2, status := 0x0#4 } ∧
    exec (.subb128 sel) s = .next { s with
      r := some (subByLimbs s.now.a s.now.b (carryIn sel s)).1, r2 := some 0#128,
      cout := (subByLimbs s.now.a s.now.b (carryIn sel s)).2, status := 0x0#4 }

/-! ### MULTIPLIER -/

/-- 41_multiplier.md R120: the exact product of the low 64 bits of each port; no bit is lost. -/
def Obligations.Mulw64WritesExactProduct : Prop :=
  decode 0x00000010#32 = some .mulw64 ∧
  ∀ s : State, s.faulted = false →
    ∃ v, exec .mulw64 s = .next { s with r := some v, r2 := some 0#128, cout := 0#1, status := 0x0#4 } ∧
      v.toNat = (s.now.a.toNat % 2 ^ 64) * (s.now.b.toNat % 2 ^ 64)

/-- 41_multiplier.md R122: the product mod 2^128, with no overflow indication. -/
def Obligations.Mul128WritesTruncatedProduct : Prop :=
  decode 0x00000011#32 = some .mul128 ∧
  ∀ s : State, s.faulted = false →
    exec .mul128 s = .next { s with
      r := some (BitVec.ofNat 128 (s.now.a.toNat * s.now.b.toNat)), r2 := some 0#128, cout := 0#1, status := 0x0#4 }

/-- 41_multiplier.md, Laws of the family: units, commutativity, associativity, distribution over ADD, and agreement with
MULW64 on zero-extended limbs. -/
def Obligations.MultiplyLaws : Prop :=
  ∀ (s : State) (x y z : Word), s.faulted = false →
    resultOf .mul128 (s.withOperands x 1#128) = some x ∧
    resultOf .mul128 (s.withOperands x 0#128) = some 0#128 ∧
    (resultOf .mul128 (s.withOperands x y)).isSome = true ∧
    resultOf .mul128 (s.withOperands x y) = resultOf .mul128 (s.withOperands y x) ∧
    ((resultOf .mul128 (s.withOperands x y)).bind fun v => resultOf .mul128 (s.withOperands v z)) =
      ((resultOf .mul128 (s.withOperands y z)).bind fun v => resultOf .mul128 (s.withOperands x v)) ∧
    ((resultOf (.addc128 .zero) (s.withOperands y z)).bind fun v => resultOf .mul128 (s.withOperands x v)) =
      ((resultOf .mul128 (s.withOperands x y)).bind fun p =>
        (resultOf .mul128 (s.withOperands x z)).bind fun q => resultOf (.addc128 .zero) (s.withOperands p q)) ∧
    resultOf .mul128 (s.withOperands (zext (lowLimb x)) (zext (lowLimb y))) =
      resultOf .mulw64 (s.withOperands x y)

/-- The portable schoolbook decomposition gives MULW64's result for every input (41_multiplier.md, the reference algorithm
"four 32×32→64 partial products combined with carry propagation"; how they combine is the spec's own general knowledge,
93_implementation_defined.md G1; log 8). -/
def Obligations.SchoolbookGivesWideningProduct : Prop :=
  ∀ s : State, s.faulted = false →
    exec .mulw64 s = .next { s with
      r := some (schoolbook (lowLimb s.now.a) (lowLimb s.now.b)), r2 := some 0#128, cout := 0#1, status := 0x0#4 }

/-- 41_multiplier.md R123: the decomposition of MUL128 gives its result for every input. -/
def Obligations.CrossTermsGiveTruncatedProduct : Prop :=
  ∀ s : State, s.faulted = false →
    exec .mul128 s = .next { s with
      r := some (multiplyByLimbs s.now.a s.now.b), r2 := some 0#128, cout := 0#1, status := 0x0#4 }

/-! ### DIVIDER -/

/-- 42_divider.md R141: quotient and remainder, and DIV_DOMAIN at divisor zero. -/
def Obligations.DivmodDividesOrEndsInDivDomain : Prop :=
  decode 0x00000020#32 = some .divmod ∧
  ∀ s : State, s.faulted = false →
    (s.now.b.toNat ≠ 0 → exec .divmod s = .next { s with
      r := some (BitVec.ofNat 128 (s.now.a.toNat / s.now.b.toNat)),
      r2 := some (BitVec.ofNat 128 (s.now.a.toNat % s.now.b.toNat)), cout := 0#1, status := 0x0#4 }) ∧
    (s.now.b.toNat = 0 → exec .divmod s = .next { s with r := none, r2 := none, cout := 0#1, status := 0x1#4 })

/-- 42_divider.md R142: quotient and remainder, and DIV_NOVALUE at divisor zero. -/
def Obligations.TrydivmodDividesOrEndsInDivNoValue : Prop :=
  decode 0x00000021#32 = some .trydivmod ∧
  ∀ s : State, s.faulted = false →
    (s.now.b.toNat ≠ 0 → exec .trydivmod s = .next { s with
      r := some (BitVec.ofNat 128 (s.now.a.toNat / s.now.b.toNat)),
      r2 := some (BitVec.ofNat 128 (s.now.a.toNat % s.now.b.toNat)), cout := 0#1, status := 0x0#4 }) ∧
    (s.now.b.toNat = 0 → exec .trydivmod s = .next { s with r := none, r2 := none, cout := 0#1, status := 0x2#4 })

/-- 42_divider.md R143: quotient and remainder, and the sticky fault UB_DIVZERO at divisor zero. -/
def Obligations.UdivmodDividesOrFaults : Prop :=
  decode 0x00000022#32 = some .udivmod ∧
  ∀ s : State, s.faulted = false →
    (s.now.b.toNat ≠ 0 → exec .udivmod s = .next { s with
      r := some (BitVec.ofNat 128 (s.now.a.toNat / s.now.b.toNat)),
      r2 := some (BitVec.ofNat 128 (s.now.a.toNat % s.now.b.toNat)), cout := 0#1, status := 0x0#4 }) ∧
    (s.now.b.toNat = 0 → ∃ t, exec .udivmod s = .next t ∧ t.faulted = true ∧
      t = { s with r := none, r2 := none, cout := 0#1, status := 0x8#4 })

/-- 42_divider.md R140: for a divisor that is not zero each divide command leaves the one pair (q, r) with
`q*b + r = a` exactly and `r < b`, for every dividend. -/
def Obligations.QuotientAndRemainderAreExact : Prop :=
  ∀ (s : State) (i : Instr), s.faulted = false → i ∈ [Instr.divmod, .trydivmod, .udivmod] → s.now.b.toNat ≠ 0 →
    ∃ q r, exec i s = .next { s with r := some q, r2 := some r, cout := 0#1, status := 0x0#4 } ∧
      q.toNat * s.now.b.toNat + r.toNat = s.now.a.toNat ∧ r.toNat < s.now.b.toNat ∧
      q.toNat = s.now.a.toNat / s.now.b.toNat ∧ r.toNat = s.now.a.toNat % s.now.b.toNat

/-- Restoring long division over the full width gives the divide commands' result for every divisor that is not zero
(42_divider.md, the reference algorithm "shift-and-subtract (restoring)"; the loop is the spec's own general knowledge,
93_implementation_defined.md G2; log 8). -/
def Obligations.RestoringDivisionGivesQuotientAndRemainder : Prop :=
  ∀ (s : State) (i : Instr), s.faulted = false → i ∈ [Instr.divmod, .trydivmod, .udivmod] → s.now.b.toNat ≠ 0 →
    exec i s = .next { s with
      r := some (restoringDivide s.now.a s.now.b).1, r2 := some (restoringDivide s.now.a s.now.b).2,
      cout := 0#1, status := 0x0#4 }

/-- The reduction to two 128-by-64 divisions gives the divide commands' result for every divisor below 2^64 that is not
zero (42_divider.md, the reference algorithm "reduce to a hardware- or software-emulated 128÷64 division"; the reduction
is the spec's own general knowledge, 93_implementation_defined.md G3; log 8). -/
def Obligations.LimbDivisionGivesQuotientAndRemainder : Prop :=
  ∀ (s : State) (i : Instr), s.faulted = false → i ∈ [Instr.divmod, .trydivmod, .udivmod] →
    s.now.b.toNat ≠ 0 → s.now.b.toNat < 2 ^ 64 →
    exec i s = .next { s with
      r := some (divideByLimb s.now.a s.now.b).1, r2 := some (divideByLimb s.now.a s.now.b).2,
      cout := 0#1, status := 0x0#4 }

/-! ### SHIFTER -/

/-- 43_shifter.md R160: the shifted value, and the sticky fault UB_SHIFT for an amount of 128 or more. -/
def Obligations.ShlShiftsOrFaults : Prop :=
  decode 0x00000030#32 = some .shl ∧
  ∀ s : State, s.faulted = false →
    (s.now.b.toNat < 128 → exec .shl s = .next { s with
      r := some (BitVec.ofNat 128 (s.now.a.toNat * 2 ^ s.now.b.toNat)), r2 := some 0#128, cout := 0#1,
      status := 0x0#4 }) ∧
    (128 ≤ s.now.b.toNat → ∃ t, exec .shl s = .next t ∧ t.faulted = true ∧
      t = { s with r := none, r2 := none, cout := 0#1, status := 0x9#4 })

/-- 43_shifter.md R161: the shifted value, and the sticky fault UB_SHIFT for an amount of 128 or more. -/
def Obligations.ShrShiftsOrFaults : Prop :=
  decode 0x00000031#32 = some .shr ∧
  ∀ s : State, s.faulted = false →
    (s.now.b.toNat < 128 → exec .shr s = .next { s with
      r := some (BitVec.ofNat 128 (s.now.a.toNat / 2 ^ s.now.b.toNat)), r2 := some 0#128, cout := 0#1,
      status := 0x0#4 }) ∧
    (128 ≤ s.now.b.toNat → ∃ t, exec .shr s = .next t ∧ t.faulted = true ∧
      t = { s with r := none, r2 := none, cout := 0#1, status := 0x9#4 })

/-- 43_shifter.md R162: the immediate left shift at every amount SHAMT holds. -/
def Obligations.ShliShiftsByShamt : Prop :=
  (∀ n : Nat, n ≤ 127 → decode (0x00000032#32 ||| (BitVec.ofNat 32 n <<< 8)) = some (.shli n)) ∧
  ∀ (n : Nat) (s : State), n ≤ 127 → s.faulted = false →
    exec (.shli n) s = .next { s with
      r := some (BitVec.ofNat 128 (s.now.a.toNat * 2 ^ n)), r2 := some 0#128, cout := 0#1, status := 0x0#4 }

/-- 43_shifter.md R163: the immediate right shift at every amount SHAMT holds. -/
def Obligations.ShriShiftsByShamt : Prop :=
  (∀ n : Nat, n ≤ 127 → decode (0x00000033#32 ||| (BitVec.ofNat 32 n <<< 8)) = some (.shri n)) ∧
  ∀ (n : Nat) (s : State), n ≤ 127 → s.faulted = false →
    exec (.shri n) s = .next { s with
      r := some (BitVec.ofNat 128 (s.now.a.toNat / 2 ^ n)), r2 := some 0#128, cout := 0#1, status := 0x0#4 }

/-- 43_shifter.md, Laws of the family: identity, the bits that survive left then right, composition, agreement with MUL128
and DIVMOD by a power of two, and of the port form with the immediate form. -/
def Obligations.ShiftLaws : Prop :=
  ∀ (s : State) (x : Word) (n m : Nat), s.faulted = false → n ≤ 127 → m ≤ 127 →
    resultOf (.shli 0) (s.withOperands x 0#128) = some x ∧ resultOf (.shri 0) (s.withOperands x 0#128) = some x ∧
    ((resultOf (.shli n) (s.withOperands x 0#128)).bind fun v => resultOf (.shri n) (s.withOperands v 0#128)) =
      some (x &&& BitVec.ofNat 128 (2 ^ (128 - n) - 1)) ∧
    (n + m ≤ 127 →
      ((resultOf (.shli n) (s.withOperands x 0#128)).bind fun v => resultOf (.shli m) (s.withOperands v 0#128)) =
        resultOf (.shli (n + m)) (s.withOperands x 0#128)) ∧
    resultOf (.shli n) (s.withOperands x 0#128) = resultOf .mul128 (s.withOperands x (BitVec.ofNat 128 (2 ^ n))) ∧
    resultOf (.shri n) (s.withOperands x 0#128) = resultOf .divmod (s.withOperands x (BitVec.ofNat 128 (2 ^ n))) ∧
    resultOf (.shli n) (s.withOperands x 0#128) = resultOf .shl (s.withOperands x (BitVec.ofNat 128 n)) ∧
    resultOf (.shri n) (s.withOperands x 0#128) = resultOf .shr (s.withOperands x (BitVec.ofNat 128 n))

/-! ### CONVERTER and SYSTEM -/

/-- 44_converter.md R180: `uint(R) = uint(a[63:0]) * 2^64 + uint(b[63:0])`. -/
def Obligations.PackJoinsLimbs : Prop :=
  decode 0x00000040#32 = some .pack ∧
  ∀ s : State, s.faulted = false →
    ∃ v, exec .pack s = .next { s with r := some v, r2 := some 0#128, cout := 0#1, status := 0x0#4 } ∧
      v.toNat = s.now.a.toNat % 2 ^ 64 * 2 ^ 64 + s.now.b.toNat % 2 ^ 64

/-- 44_converter.md R181: the high limb to R, the low limb to R2. -/
def Obligations.SplitTakesLimbsApart : Prop :=
  decode 0x00000041#32 = some .split ∧
  ∀ s : State, s.faulted = false →
    exec .split s = .next { s with
      r := some (BitVec.ofNat 128 (s.now.a.toNat / 2 ^ 64)), r2 := some (BitVec.ofNat 128 (s.now.a.toNat % 2 ^ 64)),
      cout := 0#1, status := 0x0#4 }

/-- 44_converter.md R184: R <- a, the value of the little-endian image. -/
def Obligations.FrombLeReadsLittleEndianImage : Prop :=
  decode 0x00000042#32 = some .frombLe ∧
  ∀ s : State, s.faulted = false →
    exec .frombLe s = .next { s with r := some s.now.a, r2 := some 0#128, cout := 0#1, status := 0x0#4 } ∧
    s.now.a.toNat = Spec.littleEndianSum s.now.a

/-- 44_converter.md R185: R is the value of the big-endian image, which is `bswap128(a)`. -/
def Obligations.FrombBeReadsBigEndianImage : Prop :=
  decode 0x00000043#32 = some .frombBe ∧
  ∀ s : State, s.faulted = false →
    exec .frombBe s = .next { s with r := some (bswap128 s.now.a), r2 := some 0#128, cout := 0#1, status := 0x0#4 } ∧
    (bswap128 s.now.a).toNat = Spec.bigEndianSum s.now.a

/-- FROMB.NAT dispatches on CFG.BYTE_ORDER between the two image orders (44_converter.md, section 2; that the big-endian
native image is the whole value in big-endian order is the spec's own general knowledge, 92_eei_decisions.md D23, G4; log 8). -/
def Obligations.FrombNatDispatchesOnByteOrder : Prop :=
  decode 0x00000044#32 = some .frombNat ∧
  ∀ s : State, s.faulted = false →
    exec .frombNat s = .next { s with
      r := some (if s.cfg.byteOrder = .le then BitVec.ofNat 128 (Spec.littleEndianSum s.now.a)
        else BitVec.ofNat 128 (Spec.bigEndianSum s.now.a)), r2 := some 0#128, cout := 0#1, status := 0x0#4 }

/-- 44_converter.md R183: the lanes, and that `bswap128` reverses them and is its own inverse. -/
def Obligations.Bswap128ReversesLanes : Prop :=
  ∀ v : Word, (∀ i : Nat, i < 16 →
      (lane v i).toNat = v.toNat / 2 ^ (8 * i) % 256 ∧ lane (bswap128 v) i = lane v (15 - i)) ∧
    bswap128 (bswap128 v) = v

/-- 44_converter.md R187 to R190: the zero extensions of the low 8, 16, 32 and 64 bits. -/
def Obligations.ExtzZeroExtendsLowBits : Prop :=
  (decode 0x00000048#32 = some .extz8 ∧ decode 0x00000049#32 = some .extz16 ∧ decode 0x0000004A#32 = some .extz32 ∧
    decode 0x0000004B#32 = some .extz64) ∧
  ∀ s : State, s.faulted = false → ∀ p ∈ [(Instr.extz8, 8), (.extz16, 16), (.extz32, 32), (.extz64, 64)],
    exec p.1 s = .next { s with
      r := some (BitVec.ofNat 128 (s.now.a.toNat % 2 ^ p.2)), r2 := some 0#128, cout := 0#1, status := 0x0#4 }

/-- 44_converter.md R191 to R194: the sign extensions, `uint(R) = sint(a[w-1:0]) mod 2^128`. -/
def Obligations.ExtsSignExtendsLowBits : Prop :=
  (decode 0x0000004C#32 = some .exts8 ∧ decode 0x0000004D#32 = some .exts16 ∧ decode 0x0000004E#32 = some .exts32 ∧
    decode 0x0000004F#32 = some .exts64) ∧
  ∀ s : State, s.faulted = false → ∀ p ∈ [(Instr.exts8, 8), (.exts16, 16), (.exts32, 32), (.exts64, 64)],
    exec p.1 s = .next { s with
      r := some (BitVec.ofInt 128
        (if s.now.a.toNat % 2 ^ p.2 < 2 ^ (p.2 - 1) then ((s.now.a.toNat % 2 ^ p.2 : Nat) : Int)
          else ((s.now.a.toNat % 2 ^ p.2 : Nat) : Int) - 2 ^ p.2)),
      r2 := some 0#128, cout := 0#1, status := 0x0#4 }

/-- 44_converter.md, section 4: conversions lose nothing. -/
def Obligations.ConversionsRoundTrip : Prop :=
  ∀ (s : State) (v : Word), s.faulted = false →
    ((resultOf .split (s.withOperands v 0#128)).bind fun hi =>
      (secondResultOf .split (s.withOperands v 0#128)).bind fun lo => resultOf .pack (s.withOperands hi lo)) = some v ∧
    (∀ i ∈ [Instr.frombLe, .frombBe, .frombNat],
      ((resultOf i (s.withOperands v 0#128)).bind fun u => resultOf i (s.withOperands u 0#128)) = some v) ∧
    (∀ p ∈ [(Instr.extz8, 8), (.extz16, 16), (.extz32, 32), (.extz64, 64)] ++
        [(Instr.exts8, 8), (.exts16, 16), (.exts32, 32), (.exts64, 64)],
      (resultOf p.1 (s.withOperands v 0#128)).map (fun u => u.toNat % 2 ^ p.2) = some (v.toNat % 2 ^ p.2)) ∧
    (∀ p ∈ [(Instr.exts8, Instr.extz8), (.exts16, .extz16), (.exts32, .extz32), (.exts64, .extz64)],
      ((resultOf p.1 (s.withOperands v 0#128)).bind fun u => resultOf p.2 (s.withOperands u 0#128)) =
        resultOf p.2 (s.withOperands v 0#128))

/-- 45_system.md R200: CFG's fields at their places, R[127:7] = 0. -/
def Obligations.RdcfgReadsConfiguration : Prop :=
  decode 0x000000F0#32 = some .rdcfg ∧
  ∀ s : State, s.faulted = false →
    exec .rdcfg s = .next { s with
      r := some (BitVec.ofNat 128 (Spec.cfgNumber s.cfg)), r2 := some 0#128, cout := 0#1, status := 0x0#4 }

/-- The pseudo-commands (30_encoding.md, section 5): each decodes to the real command it stands for and leaves the value
of its source operator. TOB.NAT under BYTE_ORDER = BE rests on the spec's own general knowledge that the big-endian native
image is the whole value in big-endian order (44_converter.md R186; 92_eei_decisions.md D23;
93_implementation_defined.md G4; log 8, PRESUMED). -/
def Obligations.PseudoCommandsGiveTheirOperators : Prop :=
  ∀ (p : Pseudo) (x y : Int) (s : State), s.faulted = false →
    ((p = .div ∨ p = .mod) → BitVec.ofInt 128 y ≠ 0#128) →
    decode (s.now.issueLine (p.expand x y)).cmd = some (p.expand x y).command ∧
    (if p = .mod then secondResultOf (p.expand x y).command { s with now := s.now.issueLine (p.expand x y) }
      else resultOf (p.expand x y).command { s with now := s.now.issueLine (p.expand x y) }) =
      some (Spec.pseudoValue p s.cfg.byteOrder (BitVec.ofInt 128 x) (BitVec.ofInt 128 y))

/-! ### Errors, faults and the whole machine -/

/-- 60_exceptions.md R220: the STATUS of every command, the ILLEGAL code of an illegal word, and STATUS[3] exactly for the
fault class. -/
def Obligations.StatusCodesOfEveryCommand : Prop :=
  (∀ (i : Instr) (s : State), s.faulted = false →
    ∃ t, exec i s = .next t ∧ t.status = Spec.statusAfter i s) ∧
  (∀ s : State, s.faulted = false → Spec.illegalWord s.now.cmd → ∃ t, runWord s = .next t ∧ t.status = 0xA#4) ∧
  (∀ c ∈ [0x0#4, 0x1#4, 0x2#4], c.getLsbD 3 = false) ∧ (∀ c ∈ [0x8#4, 0x9#4, 0xA#4], c.getLsbD 3 = true)

/-- 60_exceptions.md R226: a successful command leaves both values, an error or a fault leaves none and COUT 0, and a
command in the faulted state writes nothing. -/
def Obligations.OutcomesLeaveNoStaleResult : Prop :=
  ∀ (i : Instr) (s : State),
    (s.faulted = true → exec i s = .next s) ∧
    (s.faulted = false → ∃ t, exec i s = .next t ∧
      (t.status = 0x0#4 → t.r.isSome = true ∧ t.r2.isSome = true) ∧
      (t.status ≠ 0x0#4 → t.r = none ∧ t.r2 = none ∧ t.cout = 0#1))

/-- 60_exceptions.md R225: in the faulted state commands are still accepted and no word has an effect; reset leaves it. -/
def Obligations.FaultedCommandsHaveNoEffect : Prop :=
  ∀ s : State, (s.faulted = true ↔ s.status.getLsbD 3 = true) ∧
    (s.faulted = true →
      (∀ i : Instr, exec i s = .next s) ∧ raiseIllegal s = .next s ∧
      (s.now.rst = false → cmdReady s = true ∧ (s.now.cmdValid = true → accepts s = true) ∧
        (s.hostReadsHeld → ∃ t, step s = .next t ∧ t.response = s.response ∧ t.cfg = s.cfg)) ∧
      (s.now.rst = true → s.hostReadsHeld → ∃ t, step s = .next t ∧ t.faulted = false))

/-- Whatever the host issues, and however long, a faulted CORE keeps its response until a reset (60_exceptions.md, Faulted
state; 70_reset_and_hazards.md, section 1). -/
def Obligations.FaultedResponseLastsUntilReset : Prop :=
  ∀ (k : Nat) (s t : State), s.faulted = true → s.now.rst = false → (∀ m ∈ s.upcoming, m.rst = false) →
    Host.Core.run Sys2Proof.core k s = .next t → t.response = s.response

/-- Every command goes on from every state and writes nothing but R, R2, COUT and STATUS; no step writes CFG
(10_state.md, sections 3 and 4). -/
def Obligations.CommandsWriteOnlyTheResponse : Prop :=
  (∀ (i : Instr) (s : State), ∃ t, exec i s = .next t ∧ t.cfg = s.cfg ∧ t.now = s.now ∧ t.upcoming = s.upcoming) ∧
  (∀ s t : State, step s = .next t → t.cfg = s.cfg)

/-- 00_scope.md R7: only RDCFG depends on MODE and the flags, and besides it only FROMB.NAT on BYTE_ORDER: with another
configuration every other command gives the same response. -/
def Obligations.ResultsDoNotDependOnMode : Prop :=
  ∀ (i : Instr) (s : State) (c : Cfg), i ≠ .rdcfg → (i = .frombNat → c.byteOrder = s.cfg.byteOrder) →
    exec i { s with cfg := c } = Spec.mapNext (fun t => { t with cfg := c }) (exec i s)

/-- Port bits a command's rule does not name have no effect on it (30_encoding.md section 2; 10_state.md section 4): with
other levels that agree on the bits it reads, it gives the same response. -/
def Obligations.UnreadPortBitsDoNotMatter : Prop :=
  ∀ (i : Instr) (s : State) (m : HostMove),
    m.a.toNat % 2 ^ (portsRead i).aBits = s.now.a.toNat % 2 ^ (portsRead i).aBits →
    m.b.toNat % 2 ^ (portsRead i).bBits = s.now.b.toNat % 2 ^ (portsRead i).bBits →
    ((portsRead i).cin = true → m.cin = s.now.cin) →
    exec i { s with now := m } = Spec.mapNext (fun t => { t with now := m }) (exec i s)

/-- The only part of an earlier response a command reads is COUT, under CHAIN (20_memory.md, section 5): from two live
states that differ in the response alone, with equal COUT if the command chains, it leads to the same state. -/
def Obligations.OnlyChainReadsEarlierResponse : Prop :=
  ∀ (i : Instr) (s : State) (r r2 : Option Word) (c : Bit) (st : BitVec 4),
    s.faulted = false → st.getLsbD 3 = false → ((portsRead i).cout = true → c = s.cout) →
    exec i { s with r := r, r2 := r2, cout := c, status := st } = exec i s

/-- After a command that is no add or subtract, in whatever way it ends, CHAIN selects 0 (70_reset_and_hazards.md,
section 4). -/
def Obligations.ChainReadsZeroAfterOtherCommand : Prop :=
  ∀ (i : Instr) (s : State), s.faulted = false → Spec.isAdder i = false →
    ∃ t, exec i s = .next t ∧ carryIn .chain t = 0#1

/-- The reset state meets the invariant: coherent response registers and a legal configuration (10_state.md, sections 3
and 9). -/
def Obligations.ResetMeetsInvariant : Prop := State.reset.Inv

/-- Every step keeps the invariant, from every state that meets it (60_exceptions.md, sections 1 and 2). -/
def Obligations.StepKeepsInvariant : Prop :=
  ∀ s t : State, s.Inv → step s = .next t → t.Inv
end

