-- ==== Sys2Proof/Laws/PerInstr.lean ====
section
/-! SUPPORT. Statements about every instruction as syntax, one lemma per constructor. The family `Opcode`: the low byte of
a command's word is its opcode, and the rest is its operand field (30_encoding.md R61, R62). -/

namespace Sys2Proof.Laws.Opcode

/-- The low byte of the word is the opcode of the row, and the opcode's format is listed. -/
def Statement (i : Instr) : Prop :=
  opcOf (encode i) = i.opcode ∧ (encode i).extractLsb' 8 24 = i.operandField ∧ (formatOf i.opcode).isSome = true

theorem of_formatListed (i : Instr) (h : (formatOf i.opcode).isSome = true) : Statement i := by
  have bit (j : Nat) : (encode i).getLsbD j =
      if j < 8 then i.opcode.getLsbD j else i.operandField.getLsbD (j - 8) := by
    refine (BitVec.getLsbD_append (x := i.operandField) (y := i.opcode)).trans ?_
    by_cases hj : j < 8 <;> simp [hj]
  refine ⟨?_, ?_, h⟩
  · apply BitVec.eq_of_getLsbD_eq
    intro j hj
    simp [opcOf, bit, hj]
  · apply BitVec.eq_of_getLsbD_eq
    intro j hj
    simp [bit, hj]

theorem addc128 (sel : CarrySel) : Statement (.addc128 sel) := of_formatListed _
  (show (formatOf 0x01#8).isSome = true by decide)

theorem subb128 (sel : CarrySel) : Statement (.subb128 sel) := of_formatListed _
  (show (formatOf 0x02#8).isSome = true by decide)

theorem addc64 (sel : CarrySel) : Statement (.addc64 sel) := of_formatListed _
  (show (formatOf 0x03#8).isSome = true by decide)

theorem subb64 (sel : CarrySel) : Statement (.subb64 sel) := of_formatListed _
  (show (formatOf 0x04#8).isSome = true by decide)

theorem mulw64 : Statement .mulw64 := of_formatListed _ (by decide)

theorem mul128 : Statement .mul128 := of_formatListed _ (by decide)

theorem divmod : Statement .divmod := of_formatListed _ (by decide)

theorem trydivmod : Statement .trydivmod := of_formatListed _ (by decide)

theorem udivmod : Statement .udivmod := of_formatListed _ (by decide)

theorem shl : Statement .shl := of_formatListed _ (by decide)

theorem shr : Statement .shr := of_formatListed _ (by decide)

theorem shli (n : Nat) : Statement (.shli n) := of_formatListed _
  (show (formatOf 0x32#8).isSome = true by decide)

theorem shri (n : Nat) : Statement (.shri n) := of_formatListed _
  (show (formatOf 0x33#8).isSome = true by decide)

theorem pack : Statement .pack := of_formatListed _ (by decide)

theorem split : Statement .split := of_formatListed _ (by decide)

theorem frombLe : Statement .frombLe := of_formatListed _ (by decide)

theorem frombBe : Statement .frombBe := of_formatListed _ (by decide)

theorem frombNat : Statement .frombNat := of_formatListed _ (by decide)

theorem extz8 : Statement .extz8 := of_formatListed _ (by decide)

theorem extz16 : Statement .extz16 := of_formatListed _ (by decide)

theorem extz32 : Statement .extz32 := of_formatListed _ (by decide)

theorem extz64 : Statement .extz64 := of_formatListed _ (by decide)

theorem exts8 : Statement .exts8 := of_formatListed _ (by decide)

theorem exts16 : Statement .exts16 := of_formatListed _ (by decide)

theorem exts32 : Statement .exts32 := of_formatListed _ (by decide)

theorem exts64 : Statement .exts64 := of_formatListed _ (by decide)

theorem rdcfg : Statement .rdcfg := of_formatListed _ (by decide)

end Sys2Proof.Laws.Opcode
end

