-- ==== Sys2Proof/Laws/Decode.lean ====
section
/-! SUPPORT. The fields of a command word as numbers, and the word an encoder makes as a number. -/

namespace Sys2Proof

/-- Joining two bit strings, as a number. -/
theorem append_toNat {n m : Nat} (x : BitVec n) (y : BitVec m) : (x ++ y).toNat = x.toNat * 2 ^ m + y.toNat := by
  rw [BitVec.toNat_append, ← Nat.shiftLeft_add_eq_or_of_lt y.isLt, Nat.shiftLeft_eq]

theorem opcOf_toNat (w : CmdWord) : (opcOf w).toNat = w.toNat % 256 := by
  simp [opcOf]

theorem cselOf_toNat (w : CmdWord) : (cselOf w).toNat = w.toNat / 2 ^ 8 % 4 := by
  simp [cselOf, Nat.shiftRight_eq_div_pow]

theorem shamtOf_toNat (w : CmdWord) : (shamtOf w).toNat = w.toNat / 2 ^ 8 % 128 := by
  simp [shamtOf, Nat.shiftRight_eq_div_pow]

/-- The operand field of format N is clear. -/
theorem fieldN_clear_iff (w : CmdWord) : w.extractLsb' 8 24 = 0#24 ↔ w.toNat / 2 ^ 8 = 0 := by
  rw [← BitVec.toNat_inj]
  simp [Nat.shiftRight_eq_div_pow]
  omega

/-- The reserved field of format C is clear. -/
theorem fieldC_clear_iff (w : CmdWord) : w.extractLsb' 10 22 = 0#22 ↔ w.toNat / 2 ^ 10 = 0 := by
  rw [← BitVec.toNat_inj]
  simp [Nat.shiftRight_eq_div_pow]
  omega

/-- The reserved field of format S is clear. -/
theorem fieldS_clear_iff (w : CmdWord) : w.extractLsb' 15 17 = 0#17 ↔ w.toNat / 2 ^ 15 = 0 := by
  rw [← BitVec.toNat_inj]
  simp [Nat.shiftRight_eq_div_pow]
  omega

/-- The word of a command as a number. -/
theorem encode_toNat (i : Instr) : (encode i).toNat = i.operandField.toNat * 256 + i.opcode.toNat :=
  append_toNat i.operandField i.opcode

/-- The operand field of an add or subtract as a number. -/
theorem cselField_toNat (sel : CarrySel) : (0#22 ++ sel.bits).toNat = sel.bits.toNat := by
  exact (append_toNat _ _).trans (by simp)

/-- The operand field of an immediate shift as a number. -/
theorem shamtField_toNat (n : Nat) : (0#17 ++ BitVec.ofNat 7 n).toNat = n % 128 := by
  exact (append_toNat _ _).trans (by simp)

end Sys2Proof
end

