-- ==== Sys2Proof/Laws/Operands.lean ====
section
/-! SUPPORT. What each operand view and each arithmetic operation is as a number. Proofs cite these and do not unfold the
views. -/

namespace Sys2Proof.Machine

/-! ### Views -/

theorem low_toNat (n : Nat) (v : Word) : (low n v).toNat = v.toNat % 2 ^ n := by
  simp [low]

theorem lowLimb_toNat (v : Word) : (lowLimb v).toNat = v.toNat % 2 ^ 64 := by
  simp [lowLimb]

theorem highLimb_toNat (v : Word) : (highLimb v).toNat = v.toNat / 2 ^ 64 := by
  have h := v.isLt
  simp only [highLimb, BitVec.extractLsb'_toNat, Nat.shiftRight_eq_div_pow]
  omega

theorem zext_toNat {n : Nat} (hn : n ≤ 128) (v : BitVec n) : (zext v).toNat = v.toNat := by
  have h : v.toNat < 2 ^ 128 := Nat.lt_of_lt_of_le v.isLt (Nat.pow_le_pow_right (by decide) hn)
  simp only [zext, BitVec.toNat_setWidth]
  exact Nat.mod_eq_of_lt h

theorem lane_toNat (v : Word) (i : Nat) : (lane v i).toNat = v.toNat / 2 ^ (8 * i) % 256 := by
  simp [lane, Nat.shiftRight_eq_div_pow]

/-- Joining one more byte below. -/
theorem append_byte_toNat {n : Nat} (x : BitVec n) (y : BitVec 8) : (x ++ y).toNat = x.toNat * 256 + y.toNat :=
  append_toNat x y

/-- `bswap128` digit by digit, base 256, the most significant digit being lane 0. -/
theorem bswap128_toNat (v : Word) : (bswap128 v).toNat =
    (((((((((((((((lane v 0).toNat * 256 + (lane v 1).toNat) * 256 + (lane v 2).toNat) * 256 + (lane v
      3).toNat) * 256 + (lane v 4).toNat) * 256 + (lane v 5).toNat) * 256 + (lane v 6).toNat) * 256 + (lane v
      7).toNat) * 256 + (lane v 8).toNat) * 256 + (lane v 9).toNat) * 256 + (lane v 10).toNat) * 256 + (lane v
      11).toNat) * 256 + (lane v 12).toNat) * 256 + (lane v 13).toNat) * 256 + (lane v 14).toNat) * 256 + (lane
      v 15).toNat := by
  unfold bswap128
  iterate 15 refine (append_byte_toNat _ _).trans (congrArg (· * 256 + _) ?_)
  rfl

theorem bit_toNat_le_one (c : Bit) : c.toNat ≤ 1 := by
  have h := c.isLt
  omega

/-! ### Sums, differences and their carries -/

theorem carryOut_toNat (n sum : Nat) : (carryOut n sum).toNat = if 2 ^ n ≤ sum then 1 else 0 := by
  unfold carryOut
  split <;> rfl

theorem borrowOut_toNat (d : Int) : (borrowOut d).toNat = if d < 0 then 1 else 0 := by
  unfold borrowOut
  split <;> rfl

/-- Sum and carry together hold the exact sum. -/
theorem addWithCarry_exact {n : Nat} (x y : BitVec n) (c : Bit) :
    (addWithCarry x y c).2.toNat * 2 ^ n + (addWithCarry x y c).1.toNat = x.toNat + y.toNat + c.toNat := by
  have hx := x.isLt
  have hy := y.isLt
  have hc := bit_toNat_le_one c
  simp only [addWithCarry, carryOut_toNat, BitVec.toNat_ofNat]
  split
  · have h : (x.toNat + y.toNat + c.toNat) % 2 ^ n = x.toNat + y.toNat + c.toNat - 2 ^ n := by
      rw [Nat.mod_eq_sub_mod (by omega), Nat.mod_eq_of_lt (by omega)]
    omega
  · rw [Nat.mod_eq_of_lt (by omega)]
    omega

/-- Difference and borrow together hold the exact difference. -/
theorem subWithBorrow_exact {n : Nat} (x y : BitVec n) (c : Bit) :
    x.toNat + (subWithBorrow x y c).2.toNat * 2 ^ n = (subWithBorrow x y c).1.toNat + y.toNat + c.toNat := by
  have hx := x.isLt
  have hy := y.isLt
  have hc := bit_toNat_le_one c
  simp only [subWithBorrow, borrowOut_toNat, BitVec.toNat_ofInt]
  have hp : (0 : Int) < 2 ^ n := by positivity
  push_cast
  split
  · have h : ((x.toNat : Int) - y.toNat - c.toNat) % 2 ^ n = (x.toNat : Int) - y.toNat - c.toNat + 2 ^ n := by
      rw [← Int.add_emod_right, Int.emod_eq_of_lt] <;> zify at hx hy hc <;> omega
    zify at hx hy hc ⊢
    omega
  · have h : ((x.toNat : Int) - y.toNat - c.toNat) % 2 ^ n = (x.toNat : Int) - y.toNat - c.toNat := by
      rw [Int.emod_eq_of_lt] <;> zify at hx hy hc <;> omega
    zify at hx hy hc ⊢
    omega

/-! ### Division and shifts -/

theorem udivmod_fst_toNat (a b : Word) : (udivmod a b).1.toNat = a.toNat / b.toNat := by
  have h : a.toNat / b.toNat < 2 ^ 128 := Nat.lt_of_le_of_lt (Nat.div_le_self _ _) a.isLt
  simp only [udivmod, BitVec.toNat_ofNat]
  exact Nat.mod_eq_of_lt h

theorem udivmod_snd_toNat (a b : Word) : (udivmod a b).2.toNat = a.toNat % b.toNat := by
  have h : a.toNat % b.toNat < 2 ^ 128 := Nat.lt_of_le_of_lt (Nat.mod_le _ _) a.isLt
  simp only [udivmod, BitVec.toNat_ofNat]
  exact Nat.mod_eq_of_lt h

theorem shiftLeft_eq_mul (v : Word) (n : Nat) : shiftLeft v n = BitVec.ofNat 128 (v.toNat * 2 ^ n) := by
  apply BitVec.eq_of_toNat_eq
  simp [shiftLeft, Nat.shiftLeft_eq]

theorem shiftRight_toNat (v : Word) (n : Nat) : (shiftRight v n).toNat = v.toNat / 2 ^ n := by
  simp [shiftRight, Nat.shiftRight_eq_div_pow]

end Sys2Proof.Machine
end

