-- ==== Sys2Proof/Laws/State.lean ====
section
/-! SUPPORT. One lemma per field per update of State, so that no later proof unfolds a record update. -/

namespace Sys2Proof.Machine

/-! ### A successful command -/

@[simp] theorem State.respond_r (s : State) (v w : Word) (c : Bit) : (s.respond v w c).r = some v := rfl
@[simp] theorem State.respond_r2 (s : State) (v w : Word) (c : Bit) : (s.respond v w c).r2 = some w := rfl
@[simp] theorem State.respond_cout (s : State) (v w : Word) (c : Bit) : (s.respond v w c).cout = c := rfl
@[simp] theorem State.respond_status (s : State) (v w : Word) (c : Bit) : (s.respond v w c).status = 0x0#4 := rfl
@[simp] theorem State.respond_cfg (s : State) (v w : Word) (c : Bit) : (s.respond v w c).cfg = s.cfg := rfl
@[simp] theorem State.respond_now (s : State) (v w : Word) (c : Bit) : (s.respond v w c).now = s.now := rfl
@[simp] theorem State.respond_upcoming (s : State) (v w : Word) (c : Bit) : (s.respond v w c).upcoming = s.upcoming := rfl

/-! ### A successful command with one result -/

@[simp] theorem State.respondOne_r (s : State) (v : Word) : (s.respondOne v).r = some v := rfl
@[simp] theorem State.respondOne_r2 (s : State) (v : Word) : (s.respondOne v).r2 = some 0#128 := rfl
@[simp] theorem State.respondOne_cout (s : State) (v : Word) : (s.respondOne v).cout = 0#1 := rfl
@[simp] theorem State.respondOne_status (s : State) (v : Word) : (s.respondOne v).status = 0x0#4 := rfl
@[simp] theorem State.respondOne_cfg (s : State) (v : Word) : (s.respondOne v).cfg = s.cfg := rfl
@[simp] theorem State.respondOne_now (s : State) (v : Word) : (s.respondOne v).now = s.now := rfl
@[simp] theorem State.respondOne_upcoming (s : State) (v : Word) : (s.respondOne v).upcoming = s.upcoming := rfl

/-! ### An error or a fault -/

@[simp] theorem State.endWith_r (s : State) (code : StatusCode) : (s.endWith code).r = none := rfl
@[simp] theorem State.endWith_r2 (s : State) (code : StatusCode) : (s.endWith code).r2 = none := rfl
@[simp] theorem State.endWith_cout (s : State) (code : StatusCode) : (s.endWith code).cout = 0#1 := rfl
@[simp] theorem State.endWith_status (s : State) (code : StatusCode) : (s.endWith code).status = code.bits := rfl
@[simp] theorem State.endWith_cfg (s : State) (code : StatusCode) : (s.endWith code).cfg = s.cfg := rfl
@[simp] theorem State.endWith_now (s : State) (code : StatusCode) : (s.endWith code).now = s.now := rfl
@[simp] theorem State.endWith_upcoming (s : State) (code : StatusCode) : (s.endWith code).upcoming = s.upcoming := rfl

/-! ### Reset -/

@[simp] theorem State.applyReset_r (s : State) : (s.applyReset).r = none := rfl
@[simp] theorem State.applyReset_r2 (s : State) : (s.applyReset).r2 = none := rfl
@[simp] theorem State.applyReset_cout (s : State) : (s.applyReset).cout = 0#1 := rfl
@[simp] theorem State.applyReset_status (s : State) : (s.applyReset).status = 0x0#4 := rfl
@[simp] theorem State.applyReset_cfg (s : State) : (s.applyReset).cfg = s.cfg := rfl
@[simp] theorem State.applyReset_now (s : State) : (s.applyReset).now = s.now := rfl
@[simp] theorem State.applyReset_upcoming (s : State) : (s.applyReset).upcoming = s.upcoming := rfl

/-! ### Each update written out, for statements that name the record -/

theorem State.respond_eq (s : State) (v w : Word) (c : Bit) :
    s.respond v w c = { s with r := some v, r2 := some w, cout := c, status := 0x0#4 } := rfl

theorem State.respondOne_eq (s : State) (v : Word) :
    s.respondOne v = { s with r := some v, r2 := some 0#128, cout := 0#1, status := 0x0#4 } := rfl

theorem State.endWith_eq (s : State) (code : StatusCode) :
    s.endWith code = { s with r := none, r2 := none, cout := 0#1, status := code.bits } := rfl

theorem State.applyReset_eq (s : State) :
    s.applyReset = { s with r := none, r2 := none, cout := 0#1, status := 0x0#4 } := rfl

/-! ### Operands on the ports -/

@[simp] theorem State.withOperands_r (s : State) (x y : Word) : (s.withOperands x y).r = s.r := rfl
@[simp] theorem State.withOperands_r2 (s : State) (x y : Word) : (s.withOperands x y).r2 = s.r2 := rfl
@[simp] theorem State.withOperands_cout (s : State) (x y : Word) : (s.withOperands x y).cout = s.cout := rfl
@[simp] theorem State.withOperands_status (s : State) (x y : Word) : (s.withOperands x y).status = s.status := rfl
@[simp] theorem State.withOperands_cfg (s : State) (x y : Word) : (s.withOperands x y).cfg = s.cfg := rfl
@[simp] theorem State.withOperands_now (s : State) (x y : Word) : (s.withOperands x y).now = { s.now with a := x, b := y } := rfl
@[simp] theorem State.withOperands_upcoming (s : State) (x y : Word) : (s.withOperands x y).upcoming = s.upcoming := rfl

/-! ### An instruction word on the command port -/

@[simp] theorem State.withFetchWord_r (s : State) (nbits w : Nat) : (s.withFetchWord nbits w).r = s.r := rfl
@[simp] theorem State.withFetchWord_r2 (s : State) (nbits w : Nat) : (s.withFetchWord nbits w).r2 = s.r2 := rfl
@[simp] theorem State.withFetchWord_cout (s : State) (nbits w : Nat) : (s.withFetchWord nbits w).cout = s.cout := rfl
@[simp] theorem State.withFetchWord_status (s : State) (nbits w : Nat) : (s.withFetchWord nbits w).status = s.status := rfl
@[simp] theorem State.withFetchWord_cfg (s : State) (nbits w : Nat) : (s.withFetchWord nbits w).cfg = s.cfg := rfl
@[simp] theorem State.withFetchWord_now (s : State) (nbits w : Nat) : (s.withFetchWord nbits w).now = s.now.offer (BitVec.ofNat 32 (w % 2 ^ nbits)) := rfl
@[simp] theorem State.withFetchWord_upcoming (s : State) (nbits w : Nat) : (s.withFetchWord nbits w).upcoming = s.upcoming := rfl

/-! ### The host's next move -/

@[simp] theorem State.advance_r (s : State) : s.advance.r = s.r := by
  cases h : s.upcoming <;> simp [State.advance, h]
@[simp] theorem State.advance_r2 (s : State) : s.advance.r2 = s.r2 := by
  cases h : s.upcoming <;> simp [State.advance, h]
@[simp] theorem State.advance_cout (s : State) : s.advance.cout = s.cout := by
  cases h : s.upcoming <;> simp [State.advance, h]
@[simp] theorem State.advance_status (s : State) : s.advance.status = s.status := by
  cases h : s.upcoming <;> simp [State.advance, h]
@[simp] theorem State.advance_cfg (s : State) : s.advance.cfg = s.cfg := by
  cases h : s.upcoming <;> simp [State.advance, h]

/-- Where a move is listed, it is made. -/
theorem State.advance_cons {s : State} {m : HostMove} {rest : List HostMove} (h : s.upcoming = m :: rest) :
    s.advance = { s with now := m, upcoming := rest } := by
  simp [State.advance, h]

/-- After the last listed move the host lets go of the handshake. -/
theorem State.advance_nil {s : State} (h : s.upcoming = []) : s.advance = { s with now := s.now.release } := by
  simp [State.advance, h]

/-! ### The faulted state reads STATUS alone -/

@[simp] theorem State.faulted_respond (s : State) (v w : Word) (c : Bit) : (s.respond v w c).faulted = false := by
  simp [State.faulted]

@[simp] theorem State.faulted_respondOne (s : State) (v : Word) : (s.respondOne v).faulted = false := by
  simp [State.faulted]

@[simp] theorem State.faulted_applyReset (s : State) : s.applyReset.faulted = false := by
  simp [State.faulted]

@[simp] theorem State.faulted_withOperands (s : State) (x y : Word) : (s.withOperands x y).faulted = s.faulted := rfl

@[simp] theorem State.faulted_advance (s : State) : s.advance.faulted = s.faulted := by simp [State.faulted]

/-- An ending leaves the CORE faulted exactly for the fault class (60_exceptions.md R220). -/
theorem State.faulted_endWith (s : State) (code : StatusCode) :
    (s.endWith code).faulted = (code.bits).getLsbD 3 := rfl

end Sys2Proof.Machine
end

