-- ==== Sys2Proof/Laws/Ops.lean ====
section
/-! SUPPORT. What the shared operations can do, said once: proofs cite these and do not unfold the operations. -/

namespace Sys2Proof.Machine

/-- In a live state a command has its effect. -/
theorem unlessFaulted_live {s : State} (h : s.faulted = false) (e : State) : unlessFaulted s e = .next e := by
  simp [unlessFaulted, h]

/-- In a faulted state a command has no effect. -/
theorem unlessFaulted_faulted {s : State} (h : s.faulted = true) (e : State) : unlessFaulted s e = .next s := by
  simp [unlessFaulted, h]

theorem divideOr_zero {code : StatusCode} {s : State} (h : s.now.b.toNat = 0) : divideOr code s = s.endWith code := by
  simp [divideOr, h]

theorem divideOr_pos {code : StatusCode} {s : State} (h : s.now.b.toNat ≠ 0) :
    divideOr code s = s.respond (udivmod s.now.a s.now.b).1 (udivmod s.now.a s.now.b).2 0#1 := by
  simp [divideOr, h]

theorem shiftByPort_inRange {f : Word → Nat → Word} {s : State} (h : s.now.b.toNat < 128) :
    shiftByPort f s = s.respond (f s.now.a s.now.b.toNat) 0#128 0#1 := by
  simp [shiftByPort, shiftAmount, h]

theorem shiftByPort_outOfRange {f : Word → Nat → Word} {s : State} (h : 128 ≤ s.now.b.toNat) :
    shiftByPort f s = s.endWith .ubShift := by
  simp [shiftByPort, shiftAmount, Nat.not_lt.mpr h]

/-- Everything a command's effect can be: a response whose carry stands only beside R2 = 0, or an ending under a code that
is not OK. -/
inductive EffectOf (s : State) : State → Prop where
  | respond (v w : Word) (c : Bit) (h : c = 1#1 → w = 0#128) : EffectOf s (s.respond v w c)
  | ending (code : StatusCode) (h : code ≠ .ok) : EffectOf s (s.endWith code)

theorem EffectOf.divideOr {s : State} (code : StatusCode) (h : code ≠ .ok) : EffectOf s (divideOr code s) := by
  by_cases hb : s.now.b.toNat = 0
  · rw [divideOr_zero hb]
    exact .ending code h
  · rw [divideOr_pos hb]
    exact .respond _ _ _ (fun h => absurd h (by decide))

theorem EffectOf.shiftByPort {s : State} (f : Word → Nat → Word) : EffectOf s (shiftByPort f s) := by
  by_cases hb : s.now.b.toNat < 128
  · rw [shiftByPort_inRange hb]
    exact .respond _ _ _ (fun _ => rfl)
  · rw [shiftByPort_outOfRange (Nat.not_lt.mp hb)]
    exact .ending _ (by decide)

theorem EffectOf.respondOne {s : State} (v : Word) : EffectOf s (s.respondOne v) :=
  .respond _ _ _ (fun _ => rfl)

/-- Every command answers through `unlessFaulted`, with an effect of the two kinds above. -/
theorem exec_eq_unlessFaulted (i : Instr) (s : State) : ∃ e, exec i s = unlessFaulted s e ∧ EffectOf s e := by
  cases i with
  | addc128 sel => exact ⟨_, rfl, .respond _ _ _ (fun _ => rfl)⟩
  | subb128 sel => exact ⟨_, rfl, .respond _ _ _ (fun _ => rfl)⟩
  | addc64 sel => exact ⟨_, rfl, .respond _ _ _ (fun _ => rfl)⟩
  | subb64 sel => exact ⟨_, rfl, .respond _ _ _ (fun _ => rfl)⟩
  | mulw64 => exact ⟨_, rfl, .respondOne _⟩
  | mul128 => exact ⟨_, rfl, .respondOne _⟩
  | divmod => exact ⟨_, rfl, .divideOr _ (by decide)⟩
  | trydivmod => exact ⟨_, rfl, .divideOr _ (by decide)⟩
  | udivmod => exact ⟨_, rfl, .divideOr _ (by decide)⟩
  | shl => exact ⟨_, rfl, .shiftByPort _⟩
  | shr => exact ⟨_, rfl, .shiftByPort _⟩
  | shli n => exact ⟨_, rfl, .respondOne _⟩
  | shri n => exact ⟨_, rfl, .respondOne _⟩
  | pack => exact ⟨_, rfl, .respondOne _⟩
  | split => exact ⟨_, rfl, .respond _ _ _ (fun h => absurd h (by decide))⟩
  | frombLe => exact ⟨_, rfl, .respondOne _⟩
  | frombBe => exact ⟨_, rfl, .respondOne _⟩
  | frombNat => exact ⟨_, rfl, .respondOne _⟩
  | extz8 => exact ⟨_, rfl, .respondOne _⟩
  | extz16 => exact ⟨_, rfl, .respondOne _⟩
  | extz32 => exact ⟨_, rfl, .respondOne _⟩
  | extz64 => exact ⟨_, rfl, .respondOne _⟩
  | exts8 => exact ⟨_, rfl, .respondOne _⟩
  | exts16 => exact ⟨_, rfl, .respondOne _⟩
  | exts32 => exact ⟨_, rfl, .respondOne _⟩
  | exts64 => exact ⟨_, rfl, .respondOne _⟩
  | rdcfg => exact ⟨_, rfl, .respondOne _⟩

/-- Inversion of `exec`: everything a command can lead to. -/
theorem exec_cases {i : Instr} {s t : State} (h : exec i s = .next t) :
    (s.faulted = true ∧ t = s) ∨ (s.faulted = false ∧ EffectOf s t) := by
  obtain ⟨e, he, hk⟩ := exec_eq_unlessFaulted i s
  rw [he] at h
  cases hf : s.faulted with
  | true =>
    rw [unlessFaulted_faulted hf] at h
    cases h
    exact .inl ⟨rfl, rfl⟩
  | false =>
    rw [unlessFaulted_live hf] at h
    cases h
    exact .inr ⟨rfl, hk⟩

/-- Inversion of running the word on port `cmd`, legal or not. -/
theorem runWord_cases {s t : State} (h : runWord s = .next t) :
    (s.faulted = true ∧ t = s) ∨ (s.faulted = false ∧ EffectOf s t) := by
  unfold runWord at h
  split at h
  · exact exec_cases h
  · unfold raiseIllegal at h
    cases hf : s.faulted with
    | true =>
      rw [unlessFaulted_faulted hf] at h
      cases h
      exact .inl ⟨rfl, rfl⟩
    | false =>
      rw [unlessFaulted_live hf] at h
      cases h
      exact .inr ⟨rfl, .ending _ (by decide)⟩

/-- An effect leaves the configuration and the host's fields as they are. -/
theorem EffectOf.frame {s t : State} (h : EffectOf s t) :
    t.cfg = s.cfg ∧ t.now = s.now ∧ t.upcoming = s.upcoming := by
  cases h <;> exact ⟨rfl, rfl, rfl⟩

/-- Inversion of the CORE's act at one moment: reset, a word run, or nothing. -/
theorem coreMoment_cases {s t : State} (h : coreMoment s = .next t) :
    (s.now.rst = true ∧ t = s.applyReset) ∨
    (s.now.rst = false ∧ s.now.cmdValid = true ∧ runWord s = .next t) ∨
    (s.now.rst = false ∧ s.now.cmdValid = false ∧ t = s) := by
  unfold coreMoment at h
  cases hr : s.now.rst with
  | true =>
    rw [if_pos hr] at h
    cases h
    exact .inl ⟨rfl, rfl⟩
  | false =>
    rw [if_neg (by simp [hr])] at h
    cases hv : s.now.cmdValid with
    | true =>
      rw [if_pos (by simp [accepts, cmdReady, hr, hv])] at h
      exact .inr (.inl ⟨rfl, rfl, h⟩)
    | false =>
      rw [if_neg (by simp [accepts, hv])] at h
      cases h
      exact .inr (.inr ⟨rfl, rfl, rfl⟩)

end Sys2Proof.Machine
end

