-- ==== Sys2Proof/Laws/Step.lean ====
section
/-! SUPPORT. Inversion of the step: a step that goes on had no host fault and is one act of the CORE and then the host's
next move. -/

namespace Sys2Proof.Machine

theorem hostReadFault_eq_none_iff (s : State) : hostReadFault s = none ↔ s.hostReadsHeld := by
  unfold hostReadFault State.hostReadsHeld
  cases s.now.readsR <;> cases s.now.readsR2 <;> cases s.r <;> cases s.r2 <;> simp

/-- A step without a host fault is the CORE's act and the host's next move. -/
theorem step_of_readsHeld {s : State} (h : s.hostReadsHeld) : step s = thenAdvance (coreMoment s) := by
  simp [step, (hostReadFault_eq_none_iff s).mpr h]

/-- The CORE's act always goes on. -/
theorem coreMoment_goes_on (s : State) : ∃ t, coreMoment s = .next t := by
  unfold coreMoment
  split
  · exact ⟨_, rfl⟩
  · split
    · unfold runWord
      split
      · obtain ⟨e, he, -⟩ := exec_eq_unlessFaulted ‹_› s
        exact ⟨_, he⟩
      · exact ⟨_, rfl⟩
    · exact ⟨_, rfl⟩

/-- Inversion of the step. -/
theorem step_cases {s t : State} (h : step s = .next t) :
    s.hostReadsHeld ∧ ∃ u, coreMoment s = .next u ∧ t = u.advance := by
  unfold step at h
  split at h
  · cases h
  · refine ⟨(hostReadFault_eq_none_iff s).mp ‹_›, ?_⟩
    obtain ⟨u, hu⟩ := coreMoment_goes_on s
    rw [hu] at h
    cases h
    exact ⟨u, hu, rfl⟩

/-- Inversion of a run of `k + 1` steps that goes on: its first step goes on, and so do the `k` after it. -/
theorem run_succ_cases (M : Host.Core) {k : Nat} {s t : M.State} (h : M.run (k + 1) s = .next t) :
    ∃ u, M.step s = .next u ∧ M.run k u = .next t := by
  have e : M.run (k + 1) s = (match M.step s with
    | .next s' => M.run k s'
    | .fault r => .fault r
    | .refused r => .refused r) := rfl
  rw [e] at h
  split at h
  · exact ⟨_, ‹_›, h⟩
  · cases h
  · cases h

end Sys2Proof.Machine
end

