-- ==== Sys2Proof/Tests/Slice0.lean ====
section
/-! SUPPORT. Tests of the model, each one step at most, with results from outside it: V<n> are the rows of
95_test_vectors.md, P<n> its programs. Then, for every statement with hypotheses, a witness that meets them. -/

namespace Sys2Proof.Tests

open Sys2Proof.Machine

/-! ### Small states and helpers -/

/-- MODE PORTABLE, no flag, with a byte order: the CFG of the test vectors. -/
def portable (order : ByteOrder) : Cfg := ⟨.portable, false, false, false, false, order⟩

/-- NATIVE_WIDE with all flags, as V121 and V122. -/
def nativeWide (order : ByteOrder) : Cfg := ⟨.nativeWide, true, true, true, true, order⟩

/-- A CORE after reset with a known CFG and a host that does nothing. -/
def start : State := { State.reset with cfg := portable .le }

/-- A CORE of configuration `c` with COUT `cout`, on whose ports a command word and operands are offered. -/
def offered (c : Cfg) (w : CmdWord) (a b : Word) (cin cout : Bit) : State :=
  { start with
      cfg := c, cout := cout,
      now := { cmd := w, a := a, b := b, cin := cin, cmdValid := true, rst := false, readsR := false, readsR2 := false } }

/-- The response after one step, none where the step stops. -/
def stepResponse (s : State) : Option Response :=
  match step s with
  | .next t => some t.response
  | .fault _ => none
  | .refused _ => none

/-- The response to one command word, as the rows of 95_test_vectors.md section L2 give it. -/
def vector (w : CmdWord) (a b : Word) (cin cout : Bit) : Option Response :=
  stepResponse (offered (portable .le) w a b cin cout)

/-- The response of a command with one result and no carry. -/
def one (v : Word) : Option Response := some ⟨some v, some 0#128, 0#1, 0x0#4⟩

/-- The response of a command that ended in an error or a fault. -/
def noValue (code : BitVec 4) : Option Response := some ⟨none, none, 0#1, code⟩

/-! ### Well-formedness -/

theorem test_wellFormed_refuses_shli_128 : (Instr.shli 128).wellFormed = false := by decide
theorem test_wellFormed_refuses_shri_128 : (Instr.shri 128).wellFormed = false := by decide
theorem test_wellFormed_takes_shamt_bounds :
    (Instr.shli 0).wellFormed = true ∧ (Instr.shli 127).wellFormed = true ∧
    (Instr.shri 0).wellFormed = true ∧ (Instr.shri 127).wellFormed = true := by decide

/-! ### Decoding: the fields of R61 written side by side, the opcodes of R66 bit by bit -/

theorem test_decode_adder :
    decode (0#22 ++ 0b00#2 ++ 0b00000001#8) = some (.addc128 .zero) ∧
    decode (0#22 ++ 0b01#2 ++ 0b00000001#8) = some (.addc128 .port) ∧
    decode (0#22 ++ 0b10#2 ++ 0b00000001#8) = some (.addc128 .chain) ∧
    decode (0#22 ++ 0b10#2 ++ 0b00000010#8) = some (.subb128 .chain) ∧
    decode (0#22 ++ 0b01#2 ++ 0b00000011#8) = some (.addc64 .port) ∧
    decode (0#22 ++ 0b00#2 ++ 0b00000100#8) = some (.subb64 .zero) := by decide

theorem test_decode_multiplier_and_divider :
    decode (0#24 ++ 0b00010000#8) = some .mulw64 ∧ decode (0#24 ++ 0b00010001#8) = some .mul128 ∧
    decode (0#24 ++ 0b00100000#8) = some .divmod ∧ decode (0#24 ++ 0b00100001#8) = some .trydivmod ∧
    decode (0#24 ++ 0b00100010#8) = some .udivmod := by decide

theorem test_decode_shifter :
    decode (0#24 ++ 0b00110000#8) = some .shl ∧ decode (0#24 ++ 0b00110001#8) = some .shr ∧
    decode (0#17 ++ 0b0000101#7 ++ 0b00110010#8) = some (.shli 5) ∧
    decode (0#17 ++ 0b1000000#7 ++ 0b00110011#8) = some (.shri 64) ∧
    decode (0#17 ++ 0b1111111#7 ++ 0b00110011#8) = some (.shri 127) := by decide

theorem test_decode_converter :
    decode (0#24 ++ 0b01000000#8) = some .pack ∧ decode (0#24 ++ 0b01000001#8) = some .split ∧
    decode (0#24 ++ 0b01000010#8) = some .frombLe ∧ decode (0#24 ++ 0b01000011#8) = some .frombBe ∧
    decode (0#24 ++ 0b01000100#8) = some .frombNat := by decide

theorem test_decode_width_conversions :
    decode (0#24 ++ 0b01001000#8) = some .extz8 ∧ decode (0#24 ++ 0b01001001#8) = some .extz16 ∧
    decode (0#24 ++ 0b01001010#8) = some .extz32 ∧ decode (0#24 ++ 0b01001011#8) = some .extz64 ∧
    decode (0#24 ++ 0b01001100#8) = some .exts8 ∧ decode (0#24 ++ 0b01001101#8) = some .exts16 ∧
    decode (0#24 ++ 0b01001110#8) = some .exts32 ∧ decode (0#24 ++ 0b01001111#8) = some .exts64 := by decide

theorem test_decode_system : decode (0#24 ++ 0b11110000#8) = some .rdcfg := by decide

/-- V130 to V134f. -/
theorem test_decode_illegal :
    decode 0x00000000#32 = none ∧ decode 0x00000005#32 = none ∧ decode 0x000000FF#32 = none ∧
    decode 0x00000301#32 = none ∧ decode 0x00000401#32 = none ∧ decode 0x00000110#32 = none ∧
    decode 0x00008032#32 = none ∧ decode 0x80000011#32 = none ∧ decode 0x00000145#32 = none ∧
    decode 0x000001F0#32 = none := by decide

/-- The examples of R73. -/
theorem test_encode_examples :
    encode (.addc128 .zero) = 0x00000001#32 ∧ encode (.addc128 .port) = 0x00000101#32 ∧
    encode (.addc128 .chain) = 0x00000201#32 ∧ encode (.subb64 .chain) = 0x00000204#32 ∧
    encode (.shli 127) = 0x00007F32#32 ∧ encode (.shri 1) = 0x00000133#32 ∧
    encode .rdcfg = 0x000000F0#32 := by decide

theorem test_decodeTableWord :
    decodeTableWord 32 0x00000432 = some (.shli 4) ∧ decodeTableWord 32 0x00000301 = none ∧
    decodeTableWord 40 0x0100000001 = none := by decide

/-! ### ADDER (95_test_vectors.md L2.1) -/

theorem test_V2_addc64 :
    vector 0x00000103#32 0xffffffffffffffff#128 0xffffffffffffffff#128 1#1 0#1 =
      some ⟨some 0xffffffffffffffff#128, some 0#128, 1#1, 0x0#4⟩ := by decide
theorem test_V3_addc64_chain : vector 0x00000203#32 5#128 7#128 0#1 1#1 = one 0xd#128 := by decide
theorem test_V6_subb64 :
    vector 0x00000104#32 0#128 0xffffffffffffffff#128 1#1 0#1 = some ⟨some 0#128, some 0#128, 1#1, 0x0#4⟩ := by decide
theorem test_V8_subb64_chain :
    vector 0x00000204#32 5#128 5#128 0#1 1#1 =
      some ⟨some 0xffffffffffffffff#128, some 0#128, 1#1, 0x0#4⟩ := by decide
theorem test_V9_addc128_wraps :
    vector 0x00000001#32 0xffffffffffffffffffffffffffffffff#128 1#128 0#1 0#1 =
      some ⟨some 0#128, some 0#128, 1#1, 0x0#4⟩ := by decide
theorem test_V14_addc128_port :
    vector 0x00000101#32 0x0123456789abcdeffedcba9876543210#128 0x11111111111111111111111111111111#128 1#1 0#1 =
      one 0x123456789abcdf010fedcba987654322#128 := by decide
theorem test_V18_subb128_of_2_127 :
    vector 0x00000002#32 0#128 0x80000000000000000000000000000000#128 0#1 0#1 =
      some ⟨some 0x80000000000000000000000000000000#128, some 0#128, 1#1, 0x0#4⟩ := by decide
theorem test_V19_subb128_borrow_crosses :
    vector 0x00000002#32 0x00000000000000010000000000000000#128 1#128 0#1 0#1 = one 0xffffffffffffffff#128 := by decide

/-! ### MULTIPLIER (L2.2) -/

theorem test_V31_mulw64 :
    vector 0x00000010#32 0xffffffffffffffff#128 0xffffffffffffffff#128 0#1 0#1 =
      one 0xfffffffffffffffe0000000000000001#128 := by decide
theorem test_V34_mulw64_ignores_upper :
    vector 0x00000010#32 0x00000000000000050000000000000003#128 0x00000000000000090000000000000005#128 0#1 1#1 =
      one 0xf#128 := by decide
theorem test_V36_mul128 :
    vector 0x00000011#32 0xffffffffffffffffffffffffffffffff#128 0xffffffffffffffffffffffffffffffff#128 0#1 0#1 =
      one 1#128 := by decide
theorem test_V41_mul128_cross_terms :
    vector 0x00000011#32 0x00000000000000010000000000000002#128 0x00000000000000030000000000000004#128 0#1 0#1 =
      one 0x000000000000000a0000000000000008#128 := by decide

/-! ### DIVIDER (L2.3) -/

theorem test_V50_divmod :
    vector 0x00000020#32 0xc0ded00dfea2cafebabeb00b600df00d#128 0x0c1e9cf07eb63ef83b0719107c7f7153#128 0#1 0#1 =
      some ⟨some 0xf#128, some 0x0b139df691f51a734554381414964c30#128, 0#1, 0x0#4⟩ := by decide
theorem test_V61_divmod_zero : vector 0x00000020#32 5#128 0#128 0#1 1#1 = noValue 0x1#4 := by decide
theorem test_V62_trydivmod :
    vector 0x00000021#32 0x64#128 7#128 0#1 0#1 = some ⟨some 0xe#128, some 2#128, 0#1, 0x0#4⟩ := by decide
theorem test_V63_trydivmod_zero : vector 0x00000021#32 5#128 0#128 0#1 0#1 = noValue 0x2#4 := by decide
theorem test_V65_udivmod :
    vector 0x00000022#32 0xff#128 0x10#128 0#1 0#1 = some ⟨some 0xf#128, some 0xf#128, 0#1, 0x0#4⟩ := by decide
theorem test_V67_udivmod_zero : vector 0x00000022#32 1#128 0#128 0#1 0#1 = noValue 0x8#4 := by decide

/-! ### SHIFTER (L2.4) -/

theorem test_V78_shl :
    vector 0x00000030#32 0xffffffffffffffffffffffffffffffff#128 0x7f#128 0#1 0#1 =
      one 0x80000000000000000000000000000000#128 := by decide
theorem test_V82_shl_counts_all_of_b :
    vector 0x00000030#32 1#128 0x00000000000000010000000000000000#128 0#1 0#1 = noValue 0x9#4 := by decide
theorem test_V77_shr :
    vector 0x00000031#32 0x0123456789abcdeffedcba9876543210#128 0x41#128 0#1 0#1 = one 0x91a2b3c4d5e6f7#128 := by decide
theorem test_V81_shr_out_of_range :
    vector 0x00000031#32 1#128 0xffffffffffffffffffffffffffffffff#128 0#1 0#1 = noValue 0x9#4 := by decide
theorem test_V83_shli :
    vector 0x00000432#32 0x0123456789abcdeffedcba9876543210#128 0#128 0#1 0#1 =
      one 0x123456789abcdeffedcba98765432100#128 := by decide
theorem test_V87_shli_127 :
    vector 0x00007F32#32 3#128 0#128 0#1 0#1 = one 0x80000000000000000000000000000000#128 := by decide
theorem test_V84_shri :
    vector 0x00004033#32 0x0123456789abcdeffedcba9876543210#128 0#128 0#1 0#1 = one 0x123456789abcdef#128 := by decide
theorem test_V86_shri_127 :
    vector 0x00007F33#32 0xffffffffffffffffffffffffffffffff#128 0#128 0#1 0#1 = one 1#128 := by decide

/-! ### CONVERTER (L2.5) -/

theorem test_V91_pack :
    vector 0x00000040#32 0x00000000000000ff0000000000000001#128 0x00000000000000ee0000000000000002#128 0#1 0#1 =
      one 0x00000000000000010000000000000002#128 := by decide
theorem test_V92_split :
    vector 0x00000041#32 0x0123456789abcdeffedcba9876543210#128 0#128 0#1 0#1 =
      some ⟨some 0x123456789abcdef#128, some 0xfedcba9876543210#128, 0#1, 0x0#4⟩ := by decide
theorem test_V94_fromb_le :
    vector 0x00000042#32 0x0123456789abcdeffedcba9876543210#128 0#128 0#1 0#1 =
      one 0x0123456789abcdeffedcba9876543210#128 := by decide
theorem test_V95_fromb_be :
    vector 0x00000043#32 0x1032547698badcfeefcdab8967452301#128 0#128 0#1 0#1 =
      one 0x0123456789abcdeffedcba9876543210#128 := by decide
theorem test_V97_fromb_nat_be :
    stepResponse (offered (portable .be) 0x00000044#32 0x1032547698badcfeefcdab8967452301#128 0#128 0#1 0#1) =
      one 0x0123456789abcdeffedcba9876543210#128 := by decide
theorem test_V98_fromb_nat_le :
    vector 0x00000044#32 0x1032547698badcfeefcdab8967452301#128 0#128 0#1 0#1 =
      one 0x1032547698badcfeefcdab8967452301#128 := by decide
theorem test_V100_extz8 :
    vector 0x00000048#32 0xdeadbeefcafef00d1234567890abcdef#128 0#128 0#1 0#1 = one 0xef#128 := by decide
theorem test_V101_extz16 :
    vector 0x00000049#32 0xdeadbeefcafef00d1234567890abcdef#128 0#128 0#1 0#1 = one 0xcdef#128 := by decide
theorem test_V102_extz32 :
    vector 0x0000004A#32 0xdeadbeefcafef00d1234567890abcdef#128 0#128 0#1 0#1 = one 0x90abcdef#128 := by decide
theorem test_V103_extz64 :
    vector 0x0000004B#32 0xdeadbeefcafef00d1234567890abcdef#128 0#128 0#1 0#1 = one 0x1234567890abcdef#128 := by decide
theorem test_V104_exts8 :
    vector 0x0000004C#32 0xdeadbeefcafef00d1234567890abcdef#128 0#128 0#1 0#1 =
      one 0xffffffffffffffffffffffffffffffef#128 := by decide
theorem test_V109_exts8_nonnegative : vector 0x0000004C#32 0x7f#128 0#128 0#1 0#1 = one 0x7f#128 := by decide
theorem test_V105_exts16 :
    vector 0x0000004D#32 0xdeadbeefcafef00d1234567890abcdef#128 0#128 0#1 0#1 =
      one 0xffffffffffffffffffffffffffffcdef#128 := by decide
theorem test_V106_exts32 :
    vector 0x0000004E#32 0xdeadbeefcafef00d1234567890abcdef#128 0#128 0#1 0#1 =
      one 0xffffffffffffffffffffffff90abcdef#128 := by decide
theorem test_V107_exts64_nonnegative :
    vector 0x0000004F#32 0xdeadbeefcafef00d1234567890abcdef#128 0#128 0#1 0#1 = one 0x1234567890abcdef#128 := by decide
theorem test_V112_exts64 :
    vector 0x0000004F#32 0x8000000000000000#128 0#128 0#1 0#1 =
      one 0xffffffffffffffff8000000000000000#128 := by decide

/-! ### SYSTEM, illegal words, the faulted state, reset, the host (L2.6 to L2.8; P6) -/

theorem test_V122_rdcfg :
    stepResponse (offered (nativeWide .be) 0x000000F0#32 0#128 0#128 0#1 0#1) = one 0x7c#128 := by decide
theorem test_V123_rdcfg :
    stepResponse (offered ⟨.intrinsic64, false, true, true, false, .le⟩ 0x000000F0#32 0#128 0#128 0#1 0#1) =
      one 0x19#128 := by decide

theorem test_V130_all_zero_word : vector 0x00000000#32 0#128 0#128 0#1 1#1 = noValue 0xA#4 := by decide

/-- V133, its state the start of V135. -/
theorem test_V133_csel_11 : vector 0x00000301#32 1#128 1#128 0#1 0#1 = noValue 0xA#4 := by decide

/-- A faulted CORE with an offered command. -/
def faultedAt (code : BitVec 4) (w : CmdWord) (a b : Word) : State :=
  { offered (portable .le) w a b 0#1 0#1 with status := code }

theorem test_V135_no_effect_while_faulted :
    stepResponse (faultedAt 0xA#4 0x00000001#32 1#128 1#128) = noValue 0xA#4 := by decide
theorem test_V136_keeps_first_fault :
    stepResponse (faultedAt 0x8#4 0x00000020#32 1#128 0#128) = noValue 0x8#4 := by decide

/-- P6 step 6, with an offered command that reset does not accept. -/
theorem test_P6_reset :
    stepResponse { faultedAt 0x9#4 0x000000F0#32 0#128 0#128 with
      now := { (faultedAt 0x9#4 0x000000F0#32 0#128 0#128).now with rst := true } } = noValue 0x0#4 := by decide

/-- R228 after reset: no register holds a value to read. -/
theorem test_read_of_none_stops :
    step { start with now := { start.now with readsR := true } } = .fault .readOfR ∧
    step { start with now := { start.now with readsR2 := true } } = .fault .readOfR2 := ⟨rfl, rfl⟩

/-- `withFetchWord` makes the next step run the word: RDCFG after reset (V120's CFG). -/
theorem test_withFetchWord : stepResponse (start.withFetchWord 32 0xF0) = one 0x2#128 := by decide

/-- R72: `MOD a=7 b=9` leaves 7 in R2 (V51). -/
theorem test_pseudo_mod :
    secondResultOf (Pseudo.mod.expand 7 9).command { start with now := start.now.issueLine (Pseudo.mod.expand 7 9) } =
      some 7#128 := by decide

/-- R27: the output ports of a CORE that holds no value, and cmd_ready under reset (R250). -/
theorem test_outputs :
    outputs start = ⟨none, false, none, false, 0#1, 0x0#4, true⟩ ∧
    (outputs { start with now := { start.now with rst := true } }).cmdReady = false := by decide

/-- R66 and R71: mnemonics and suffixes as the assembler writes them. -/
theorem test_assembly :
    assembly (.addc128 .chain) = "ADDC128.c" ∧ assembly (.shli 5) = "SHLI #5" ∧
    assembly .frombNat = "FROMB.NAT" := by decide

/-! ### Witnesses: a state and operands that meet the hypotheses of each statement -/

/-- A live CORE that holds a response, with operands 7 and 2 on its ports and ADDC128.z offered. -/
def live : State :=
  { offered (portable .le) 0x00000001#32 7#128 2#128 1#1 1#1 with r := some 5#128, r2 := some 0#128 }

/-- `live` with another level on port `b`. -/
def liveB (b : Word) : State := live.withOperands 7#128 b

/-- A faulted CORE whose host offers a command and has two more moves. -/
def stuck : State :=
  { faultedAt 0x8#4 0x00000020#32 1#128 0#128 with upcoming := [live.now, HostMove.idle] }

theorem witness_live_reads : live.hostReadsHeld := by unfold State.hostReadsHeld; decide
theorem witness_stuck_reads : stuck.hostReadsHeld := by unfold State.hostReadsHeld; decide

/-- A host that reads both ports, allowed since both registers hold a value. -/
def reading : State := { live with now := { live.now with readsR := true, readsR2 := true } }

theorem witness_reading_reads : reading.hostReadsHeld := by unfold State.hostReadsHeld; decide

/-- `live` under reset, and `live` with no command offered. -/
def resetting : State := { live with now := { live.now with rst := true } }
def quiet : State := { live with now := { live.now with cmdValid := false } }

theorem witness_ResetLeavesNoValueAndOk :
    (resetting.now.rst = true ∧ resetting.hostReadsHeld) ∧
    (quiet.now.rst = false ∧ quiet.now.cmdValid = false ∧ quiet.hostReadsHeld) := by
  unfold State.hostReadsHeld; decide

theorem witness_StepRunsTheDecodedCommand :
    reading.hostReadsHeld ∧ reading.now.rst = false ∧ reading.now.cmdValid = true ∧
    decode reading.now.cmd = some (.addc128 .zero) := by unfold State.hostReadsHeld; decide

theorem witness_HostMovesInListOrder :
    stuck.upcoming = live.now :: [HostMove.idle] ∧ live.upcoming = [] := by decide

/-- The three cases of R222. -/
theorem witness_FaultedThenIllegalThenCommand :
    stuck.status.getLsbD 3 = true ∧
    ((offered (portable .le) 0x00000301#32 0#128 0#128 0#1 0#1).status.getLsbD 3 = false ∧
      decode (offered (portable .le) 0x00000301#32 0#128 0#128 0#1 0#1).now.cmd = none) ∧
    (live.status.getLsbD 3 = false ∧ decode live.now.cmd = some (.addc128 .zero)) := by decide

/-- Each outcome of R228, with both reads at once among them. -/
theorem witness_StepStopsExactlyOnReadOfNone :
    step { start with now := { start.now with readsR := true, readsR2 := true } } = .fault .readOfR ∧
    step { start with now := { start.now with readsR2 := true } } = .fault .readOfR2 ∧
    (∃ t, step reading = .next t) := ⟨rfl, rfl, ⟨_, rfl⟩⟩

/-- The four ways a word is illegal: OPC 0x05, and one reserved bit or CSEL = 11 in each format. -/
theorem witness_IllegalWordsAreExactlyThese :
    (offered (portable .le) 0x00000005#32 0#128 0#128 0#1 0#1).faulted = false ∧
    Spec.illegalWord (offered (portable .le) 0x00000005#32 0#128 0#128 0#1 0#1).now.cmd ∧
    Spec.illegalWord 0x00000110#32 ∧ Spec.illegalWord 0x00000301#32 ∧ Spec.illegalWord 0x00000401#32 ∧
    Spec.illegalWord 0x00008032#32 := by
  unfold Spec.illegalWord
  refine ⟨?_, ?_, ?_, ?_, ?_, ?_⟩ <;> decide

theorem witness_OpcodeMapSelectsCommands :
    (0 ≤ 127 ∧ 127 ≤ 127) ∧ (decode 0x00007F33#32).isSome = true ∧ (decode 0x000000F0#32).isSome = true ∧
    (decode 0x00000204#32).isSome = true := by decide

theorem witness_DecodeAndEncodeAreInverse :
    (Instr.shli 127).wellFormed = true ∧ (Instr.subb64 .chain).wellFormed = true ∧ Instr.rdcfg.wellFormed = true ∧
    decode 0x00000133#32 = some (.shri 1) := by decide

theorem witness_CarrySelectField : (0x01 ∈ Spec.opcodesC) ∧ (0x04 ∈ Spec.opcodesC) := by decide

theorem witness_Addc128WritesSumAndCarry : live.faulted = false := by decide
theorem witness_Subb128WritesDifferenceAndBorrow : live.faulted = false := by decide
theorem witness_Addc64WritesLimbSumAndCarry : live.faulted = false := by decide
theorem witness_Subb64WritesLimbDifferenceAndBorrow : live.faulted = false := by decide
theorem witness_CarryAndResultAreExact : live.faulted = false := by decide
theorem witness_AddAndSubAreRingOperations : live.faulted = false := by decide
theorem witness_ChainedLimbsGiveLongSumAndDifference :
    [((7#128, 2#128) : Word × Word), (1#128, 3#128)] ≠ [] ∧ live.faulted = false := by decide
theorem witness_LimbCompositionGivesWideAddAndSub : live.faulted = false := by decide
theorem witness_Mulw64WritesExactProduct : live.faulted = false := by decide
theorem witness_Mul128WritesTruncatedProduct : live.faulted = false := by decide
theorem witness_MultiplyLaws : live.faulted = false := by decide
theorem witness_SchoolbookGivesWideningProduct : live.faulted = false := by decide
theorem witness_CrossTermsGiveTruncatedProduct : live.faulted = false := by decide

/-- Divisor 1 and divisor 0, the values beside the boundary. -/
theorem witness_DivmodDividesOrEndsInDivDomain :
    ((liveB 1#128).faulted = false ∧ (liveB 1#128).now.b.toNat ≠ 0) ∧
    ((liveB 0#128).faulted = false ∧ (liveB 0#128).now.b.toNat = 0) := by decide
theorem witness_TrydivmodDividesOrEndsInDivNoValue :
    ((liveB 1#128).faulted = false ∧ (liveB 1#128).now.b.toNat ≠ 0) ∧
    ((liveB 0#128).faulted = false ∧ (liveB 0#128).now.b.toNat = 0) := by decide
theorem witness_UdivmodDividesOrFaults :
    ((liveB 1#128).faulted = false ∧ (liveB 1#128).now.b.toNat ≠ 0) ∧
    ((liveB 0#128).faulted = false ∧ (liveB 0#128).now.b.toNat = 0) := by decide
theorem witness_QuotientAndRemainderAreExact :
    live.faulted = false ∧ Instr.trydivmod ∈ [Instr.divmod, .trydivmod, .udivmod] ∧ live.now.b.toNat ≠ 0 := by decide
theorem witness_RestoringDivisionGivesQuotientAndRemainder :
    live.faulted = false ∧ Instr.udivmod ∈ [Instr.divmod, .trydivmod, .udivmod] ∧ live.now.b.toNat ≠ 0 := by decide

/-- The largest divisor of the short path. -/
theorem witness_LimbDivisionGivesQuotientAndRemainder :
    (liveB 0xffffffffffffffff#128).faulted = false ∧ Instr.divmod ∈ [Instr.divmod, .trydivmod, .udivmod] ∧
    (liveB 0xffffffffffffffff#128).now.b.toNat ≠ 0 ∧ (liveB 0xffffffffffffffff#128).now.b.toNat < 2 ^ 64 := by decide

/-- Amounts 127 and 128, the values beside the boundary. -/
theorem witness_ShlShiftsOrFaults :
    ((liveB 127#128).faulted = false ∧ (liveB 127#128).now.b.toNat < 128) ∧
    ((liveB 128#128).faulted = false ∧ 128 ≤ (liveB 128#128).now.b.toNat) := by decide
theorem witness_ShrShiftsOrFaults :
    ((liveB 127#128).faulted = false ∧ (liveB 127#128).now.b.toNat < 128) ∧
    ((liveB 128#128).faulted = false ∧ 128 ≤ (liveB 128#128).now.b.toNat) := by decide
theorem witness_ShliShiftsByShamt : (0 ≤ 127 ∧ 127 ≤ 127) ∧ live.faulted = false := by decide
theorem witness_ShriShiftsByShamt : (0 ≤ 127 ∧ 127 ≤ 127) ∧ live.faulted = false := by decide

/-- Amounts 127 and 0, and 64 and 63, whose sums are the largest the composition law covers. -/
theorem witness_ShiftLaws :
    live.faulted = false ∧ (127 ≤ 127 ∧ 0 ≤ 127 ∧ 127 + 0 ≤ 127) ∧ (64 ≤ 127 ∧ 63 ≤ 127 ∧ 64 + 63 ≤ 127) := by decide

theorem witness_PackJoinsLimbs : live.faulted = false := by decide
theorem witness_SplitTakesLimbsApart : live.faulted = false := by decide
theorem witness_FrombLeReadsLittleEndianImage : live.faulted = false := by decide
theorem witness_FrombBeReadsBigEndianImage : live.faulted = false := by decide

/-- Both byte orders. -/
theorem witness_FrombNatDispatchesOnByteOrder :
    (live.faulted = false ∧ live.cfg.byteOrder = .le) ∧
    ((offered (portable .be) 0x00000044#32 0#128 0#128 0#1 0#1).faulted = false ∧
      (offered (portable .be) 0x00000044#32 0#128 0#128 0#1 0#1).cfg.byteOrder = .be) := by decide
theorem witness_Bswap128ReversesLanes : 0 < 16 ∧ 15 < 16 := by decide
theorem witness_ExtzZeroExtendsLowBits :
    live.faulted = false ∧ (Instr.extz8, 8) ∈ [(Instr.extz8, 8), (.extz16, 16), (.extz32, 32), (.extz64, 64)] ∧
    (Instr.extz64, 64) ∈ [(Instr.extz8, 8), (.extz16, 16), (.extz32, 32), (.extz64, 64)] := by decide

/-- EXTS8's operand at 127 and at 128, where the sign changes. -/
theorem witness_ExtsSignExtendsLowBits :
    (live.faulted = false ∧ (Instr.exts8, 8) ∈ [(Instr.exts8, 8), (.exts16, 16), (.exts32, 32), (.exts64, 64)]) ∧
    ((live.withOperands 127#128 0#128).now.a.toNat % 2 ^ 8 < 2 ^ (8 - 1)) ∧
    ¬((live.withOperands 128#128 0#128).now.a.toNat % 2 ^ 8 < 2 ^ (8 - 1)) := by decide
theorem witness_ConversionsRoundTrip :
    live.faulted = false ∧ Instr.frombBe ∈ [Instr.frombLe, .frombBe, .frombNat] ∧
    (Instr.exts16, Instr.extz16) ∈ [(Instr.exts8, Instr.extz8), (.exts16, .extz16), (.exts32, .extz32),
      (.exts64, .extz64)] := by decide
theorem witness_RdcfgReadsConfiguration : live.faulted = false := by decide

/-- MOD by -1, which is 2^128 - 1 on the port, and NEG, whose second operand is not used. -/
theorem witness_PseudoCommandsGiveTheirOperators :
    live.faulted = false ∧ (Pseudo.mod = .div ∨ Pseudo.mod = .mod) ∧ BitVec.ofInt 128 (-1) ≠ 0#128 ∧
    ¬(Pseudo.neg = .div ∨ Pseudo.neg = .mod) := by decide

/-- Live and faulted, with each recoverable and sticky boundary on port `b`. -/
theorem witness_StatusCodesOfEveryCommand :
    live.faulted = false ∧ (liveB 0#128).faulted = false ∧ (liveB 128#128).faulted = false ∧
    Spec.illegalWord (offered (portable .le) 0x00000000#32 0#128 0#128 0#1 0#1).now.cmd ∧
    Spec.statusAfter .udivmod (liveB 0#128) = 0x8#4 ∧ Spec.statusAfter .shl (liveB 128#128) = 0x9#4 := by
  unfold Spec.illegalWord; decide
theorem witness_OutcomesLeaveNoStaleResult :
    stuck.faulted = true ∧ live.faulted = false ∧
    (responseOf .divmod live).map Response.status = some 0x0#4 ∧
    (responseOf .divmod (liveB 0#128)).map Response.status = some 0x1#4 := by decide

/-- `stuck` with no reset, and under reset. -/
theorem witness_FaultedCommandsHaveNoEffect :
    (stuck.faulted = true ∧ stuck.now.rst = false ∧ stuck.now.cmdValid = true ∧ stuck.hostReadsHeld) ∧
    ∃ s : State, s.faulted = true ∧ s.now.rst = true ∧ s.hostReadsHeld := by
  refine ⟨?_, ⟨{ stuck with now := { stuck.now with rst := true } }, ?_⟩⟩ <;> (unfold State.hostReadsHeld; decide)

theorem witness_FaultedResponseLastsUntilReset :
    (stuck.faulted = true ∧ stuck.now.rst = false ∧ (∀ m ∈ stuck.upcoming, m.rst = false)) ∧
    ∃ t, Host.Core.run Sys2Proof.core 2 stuck = .next t := ⟨by decide, ⟨_, rfl⟩⟩

theorem witness_CommandsWriteOnlyTheResponse : ∃ t, step live = .next t := ⟨_, rfl⟩

/-- A command that is not FROMB.NAT, and FROMB.NAT with the other MODE and the same byte order. -/
theorem witness_ResultsDoNotDependOnMode :
    (Instr.mul128 ≠ .rdcfg ∧ (Instr.mul128 = .frombNat → (nativeWide .be).byteOrder = live.cfg.byteOrder)) ∧
    (Instr.frombNat ≠ .rdcfg ∧ (nativeWide .le).byteOrder = live.cfg.byteOrder) := by decide

/-- EXTZ8 with other levels above bit 7, on port `b` and on `cin`, and ADDC64.p with the same `cin`. -/
theorem witness_UnreadPortBitsDoNotMatter :
    (0xff07#128).toNat % 2 ^ (portsRead .extz8).aBits = live.now.a.toNat % 2 ^ (portsRead .extz8).aBits ∧
    (0x99#128).toNat % 2 ^ (portsRead .extz8).bBits = live.now.b.toNat % 2 ^ (portsRead .extz8).bBits ∧
    ((portsRead .extz8).cin = true → (0#1 : Bit) = live.now.cin) ∧
    (portsRead (.addc64 .port)).cin = true := by decide

/-- MUL128 from another COUT, and ADDC128.c from the same. -/
theorem witness_OnlyChainReadsEarlierResponse :
    (live.faulted = false ∧ (0x1#4).getLsbD 3 = false ∧ ((portsRead .mul128).cout = true → (0#1 : Bit) = live.cout)) ∧
    ((portsRead (.addc128 .chain)).cout = true ∧ (1#1 : Bit) = live.cout) := by decide

theorem witness_ChainReadsZeroAfterOtherCommand : live.faulted = false ∧ Spec.isAdder .divmod = false := by decide

theorem witness_StepKeepsInvariant :
    (quiet.withOperands 7#128 0#128).CfgLegal ∧ ∃ s t : State, s.Inv ∧ step s = .next t :=
  ⟨by unfold State.CfgLegal; decide,
   ⟨{ live with cout := 0#1 }, _,
     ⟨⟨by decide, by decide, by decide, by decide, by decide⟩, by unfold State.CfgLegal; decide⟩, rfl⟩⟩

end Sys2Proof.Tests
end

section
/-! PROOFS. The configuration as an input: which commands read it (00_scope.md R7). -/

namespace Sys2Proof.Machine

/-- In `unlessFaulted`, a change of state that keeps STATUS[3] may be made before the command or after it: the faulted
test then answers the same (60_exceptions.md R222 case 1). -/
theorem mapNext_unlessFaulted {f : State → State} {s : State} (hf : (f s).faulted = s.faulted) (e : State) :
    Spec.mapNext f (unlessFaulted s e) = unlessFaulted (f s) (f e) := by
  cases h : s.faulted with
  | true => rw [unlessFaulted_faulted h, unlessFaulted_faulted (hf.trans h)]; rfl
  | false => rw [unlessFaulted_live h, unlessFaulted_live (hf.trans h)]; rfl

/-- Where `f` keeps STATUS[3] and takes the effect from `s` to the effect from `f s`, it may be applied before the command
or after it. -/
theorem exec_commutes_of_effect {f : State → State} {i : Instr} {s e : State} (hf : (f s).faulted = s.faulted)
    (h : exec i s = unlessFaulted s e) (hfs : exec i (f s) = unlessFaulted (f s) (f e)) :
    exec i (f s) = Spec.mapNext f (exec i s) := by
  rw [h, hfs, mapNext_unlessFaulted hf]

/-- The state of a CORE built with the configuration `c` instead (10_state.md R22). -/
def State.withCfg (c : Cfg) (s : State) : State := { s with cfg := c }

@[simp] theorem State.withCfg_cfg (c : Cfg) (s : State) : (s.withCfg c).cfg = c := rfl
@[simp] theorem State.withCfg_now (c : Cfg) (s : State) : (s.withCfg c).now = s.now := rfl
@[simp] theorem State.faulted_withCfg (c : Cfg) (s : State) : (s.withCfg c).faulted = s.faulted := rfl

theorem State.respond_withCfg (c : Cfg) (s : State) (v w : Word) (k : Bit) :
    (s.withCfg c).respond v w k = (s.respond v w k).withCfg c := rfl

theorem State.endWith_withCfg (c : Cfg) (s : State) (code : StatusCode) :
    (s.withCfg c).endWith code = (s.endWith code).withCfg c := rfl

theorem divideOr_withCfg (c : Cfg) (code : StatusCode) (s : State) :
    divideOr code (s.withCfg c) = (divideOr code s).withCfg c := by
  by_cases hb : s.now.b.toNat = 0
  · rw [divideOr_zero hb, divideOr_zero (s := s.withCfg c) hb, State.endWith_withCfg]
  · rw [divideOr_pos hb, divideOr_pos (s := s.withCfg c) hb, State.respond_withCfg, State.withCfg_now]

theorem shiftByPort_withCfg (c : Cfg) (shift : Word → Nat → Word) (s : State) :
    shiftByPort shift (s.withCfg c) = (shiftByPort shift s).withCfg c := by
  by_cases hb : s.now.b.toNat < 128
  · rw [shiftByPort_inRange hb, shiftByPort_inRange (s := s.withCfg c) hb, State.respond_withCfg, State.withCfg_now]
  · have hb := Nat.not_lt.mp hb
    rw [shiftByPort_outOfRange hb, shiftByPort_outOfRange (s := s.withCfg c) hb, State.endWith_withCfg]

/-- FROMB.NAT reads BYTE_ORDER and nothing else of the configuration (44_converter.md R186). -/
theorem execFrombNat_withCfg {c : Cfg} {s : State} (h : c.byteOrder = s.cfg.byteOrder) :
    execFrombNat (s.withCfg c) =
      unlessFaulted (s.withCfg c) ((s.respondOne (fromNative s.cfg.byteOrder s.now.a)).withCfg c) := by
  rw [execFrombNat, State.withCfg_cfg, h]
  rfl

/-- Only RDCFG and FROMB.NAT look at the configuration: the effect of every other command is a response or an ending
computed from the ports and COUT alone. -/
theorem exec_withCfg {i : Instr} {s : State} {c : Cfg} (hrdcfg : i ≠ .rdcfg)
    (hnat : i = .frombNat → c.byteOrder = s.cfg.byteOrder) :
    exec i (s.withCfg c) = Spec.mapNext (State.withCfg c) (exec i s) := by
  have hf : (s.withCfg c).faulted = s.faulted := State.faulted_withCfg c s
  cases i with
  | addc128 _ | subb128 _ | addc64 _ | subb64 _ | mulw64 | mul128 | shli _ | shri _ | pack | split | frombLe | frombBe
  | extz8 | extz16 | extz32 | extz64 | exts8 | exts16 | exts32 | exts64 =>
    exact exec_commutes_of_effect hf rfl rfl
  | divmod | trydivmod | udivmod =>
    exact exec_commutes_of_effect hf rfl (congrArg (unlessFaulted _) (divideOr_withCfg c _ s))
  | shl | shr => exact exec_commutes_of_effect hf rfl (congrArg (unlessFaulted _) (shiftByPort_withCfg c _ s))
  | frombNat => exact exec_commutes_of_effect hf rfl (execFrombNat_withCfg (hnat rfl))
  | rdcfg => exact absurd rfl hrdcfg

/-- Settles O51: the configuration reaches a command's effect in RDCFG and FROMB.NAT alone. -/
theorem resultsDoNotDependOnMode : Obligations.ResultsDoNotDependOnMode := by
  unfold Obligations.ResultsDoNotDependOnMode
  intro i s c hrdcfg hnat
  exact exec_withCfg hrdcfg hnat

end Sys2Proof.Machine
end

section
/-! PROOFS. The state after reset, the reset event, and a moment with neither a reset nor a command (10_state.md R22, R33;
70_reset_and_hazards.md R250; 60_exceptions.md R234). -/

namespace Sys2Proof

/-- PORTABLE is legal with any flags, so falling back to it mends any declared combination (10_state.md R22). -/
theorem Config.build_legal : Config.build.legal = true := by
  by_cases h : Config.declared.legal = true
  · rw [Config.build, if_pos h]
    exact h
  · rw [Config.build, if_neg h]
    rfl

end Sys2Proof

namespace Sys2Proof.Machine

/-- A state whose response registers are empty is coherent under any of the six codes (60_exceptions.md R220). -/
theorem State.Coherent.of_empty {s : State} (hr : s.r = none) (hr2 : s.r2 = none) (hcout : s.cout = 0#1)
    (hcode : s.status ∈ [0x0#4, 0x1#4, 0x2#4, 0x8#4, 0x9#4, 0xA#4]) : s.Coherent where
  code := hcode
  together := by rw [hr, hr2]
  noStale _ := hr
  emptyCarry _ := hcout
  carryAlone h := absurd (hcout.symm.trans h) (by decide)

theorem State.reset_coherent : State.reset.Coherent := .of_empty rfl rfl rfl (List.mem_cons_self ..)

/-- Settles O55: reset leaves empty response registers, and a build is always legal. -/
theorem resetMeetsInvariant : Obligations.ResetMeetsInvariant := by
  unfold Obligations.ResetMeetsInvariant
  exact ⟨State.reset_coherent, Config.build_legal⟩

theorem cmdReady_of_rst {s : State} (h : s.now.rst = true) : cmdReady s = false := by
  simp [cmdReady, h]

/-- Without `cmd_ready` no command is accepted (70_reset_and_hazards.md R254). -/
theorem accepts_of_rst {s : State} (h : s.now.rst = true) : accepts s = false := by
  simp [accepts, cmdReady_of_rst h]

theorem accepts_of_not_cmdValid {s : State} (h : s.now.cmdValid = false) : accepts s = false := by
  simp [accepts, h]

theorem coreMoment_of_rst {s : State} (h : s.now.rst = true) : coreMoment s = .next s.applyReset := by
  rw [coreMoment, if_pos h]

/-- With no reset and no command offered the CORE is idle (60_exceptions.md R234). -/
theorem coreMoment_of_idle {s : State} (hrst : s.now.rst = false) (hvalid : s.now.cmdValid = false) :
    coreMoment s = .next s := by
  simp [coreMoment, hrst, accepts_of_not_cmdValid hvalid]

theorem step_of_rst {s : State} (hreads : s.hostReadsHeld) (h : s.now.rst = true) :
    step s = .next s.applyReset.advance := by
  rw [step_of_readsHeld hreads, coreMoment_of_rst h, thenAdvance]

theorem step_of_idle {s : State} (hreads : s.hostReadsHeld) (hrst : s.now.rst = false)
    (hvalid : s.now.cmdValid = false) : step s = .next s.advance := by
  rw [step_of_readsHeld hreads, coreMoment_of_idle hrst hvalid, thenAdvance]

/-- The host's move does not reach the response. -/
@[simp] theorem State.response_advance (s : State) : s.advance.response = s.response := by
  simp [State.response]

/-- Settles O1: a step under reset is the reset event, an idle step nothing, and each is followed by the host's move alone,
which writes none of the CORE's registers. -/
theorem resetLeavesNoValueAndOk : Obligations.ResetLeavesNoValueAndOk := by
  unfold Obligations.ResetLeavesNoValueAndOk
  refine ⟨⟨rfl, rfl, rfl, rfl, rfl, rfl⟩, fun s hrst => ⟨cmdReady_of_rst hrst, accepts_of_rst hrst, fun hreads => ?_⟩,
    fun s hrst hvalid hreads => ?_⟩
  · exact ⟨s.applyReset.advance, step_of_rst hreads hrst, by simp⟩
  · exact ⟨s.advance, step_of_idle hreads hrst hvalid, s.response_advance, s.advance_cfg⟩

end Sys2Proof.Machine
end

section
/-! PROOFS. The earlier response as an input: which commands read it, and the run of the offered word as a step
(20_memory.md R46; 70_reset_and_hazards.md R254). -/

namespace Sys2Proof.Machine

/-- The state with the response `p` standing from before (10_state.md R28). -/
def State.withResponse (p : Response) (s : State) : State :=
  { s with r := p.r, r2 := p.r2, cout := p.cout, status := p.status }

@[simp] theorem State.withResponse_now (p : Response) (s : State) : (s.withResponse p).now = s.now := rfl
@[simp] theorem State.faulted_withResponse (p : Response) (s : State) :
    (s.withResponse p).faulted = p.status.getLsbD 3 := rfl

/-- A response overwrites all of the earlier one. -/
theorem State.respond_withResponse (p : Response) (s : State) (v w : Word) (k : Bit) :
    (s.withResponse p).respond v w k = s.respond v w k := rfl

/-- An ending overwrites all of the earlier response. -/
theorem State.endWith_withResponse (p : Response) (s : State) (code : StatusCode) :
    (s.withResponse p).endWith code = s.endWith code := rfl

theorem divideOr_withResponse (p : Response) (code : StatusCode) (s : State) :
    divideOr code (s.withResponse p) = divideOr code s := by
  by_cases hb : s.now.b.toNat = 0
  · rw [divideOr_zero hb, divideOr_zero (s := s.withResponse p) hb, State.endWith_withResponse]
  · rw [divideOr_pos hb, divideOr_pos (s := s.withResponse p) hb, State.respond_withResponse, State.withResponse_now]

theorem shiftByPort_withResponse (p : Response) (shift : Word → Nat → Word) (s : State) :
    shiftByPort shift (s.withResponse p) = shiftByPort shift s := by
  by_cases hb : s.now.b.toNat < 128
  · rw [shiftByPort_inRange hb, shiftByPort_inRange (s := s.withResponse p) hb, State.respond_withResponse,
      State.withResponse_now]
  · have hb := Nat.not_lt.mp hb
    rw [shiftByPort_outOfRange hb, shiftByPort_outOfRange (s := s.withResponse p) hb, State.endWith_withResponse]

/-- CHAIN alone selects a part of the earlier response, its COUT (30_encoding.md R63). -/
theorem carryIn_withResponse {p : Response} {sel : CarrySel} {s : State} (h : sel = .chain → p.cout = s.cout) :
    carryIn sel (s.withResponse p) = carryIn sel s := by
  cases sel with
  | zero | port => rfl
  | chain => exact h rfl

/-- From two live states, a command with the same effect from both leads to the same outcome. -/
theorem exec_eq_of_same_effect {i : Instr} {s t e : State} (hs : s.faulted = false) (ht : t.faulted = false)
    (hes : exec i s = unlessFaulted s e) (het : exec i t = unlessFaulted t e) : exec i t = exec i s := by
  rw [hes, het, unlessFaulted_live hs, unlessFaulted_live ht]

/-- A command's effect overwrites the whole response, and only the carry in of an add or subtract is computed from the
earlier one. -/
theorem exec_withResponse {i : Instr} {s : State} {p : Response} (hs : s.faulted = false)
    (hp : p.status.getLsbD 3 = false) (hcout : (portsRead i).cout = true → p.cout = s.cout) :
    exec i (s.withResponse p) = exec i s := by
  have ht : (s.withResponse p).faulted = false := (State.faulted_withResponse p s).trans hp
  cases i with
  | addc128 sel | subb128 sel | addc64 sel | subb64 sel =>
    have hcarry : carryIn sel (s.withResponse p) = carryIn sel s :=
      carryIn_withResponse fun hsel => hcout (decide_eq_true hsel)
    refine exec_eq_of_same_effect hs ht rfl ?_
    simp only [exec, execAddc128, execSubb128, execAddc64, execSubb64, hcarry, State.withResponse_now,
      State.respond_withResponse]
  | mulw64 | mul128 | shli _ | shri _ | pack | split | frombLe | frombBe | frombNat | extz8 | extz16 | extz32 | extz64
  | exts8 | exts16 | exts32 | exts64 | rdcfg =>
    exact exec_eq_of_same_effect hs ht rfl rfl
  | divmod | trydivmod | udivmod =>
    exact exec_eq_of_same_effect hs ht rfl (congrArg (unlessFaulted _) (divideOr_withResponse p _ s))
  | shl | shr => exact exec_eq_of_same_effect hs ht rfl (congrArg (unlessFaulted _) (shiftByPort_withResponse p _ s))

/-- Settles O53: of the earlier response only COUT reaches a command's effect, through the carry in that CHAIN selects. -/
theorem onlyChainReadsEarlierResponse : Obligations.OnlyChainReadsEarlierResponse := by
  unfold Obligations.OnlyChainReadsEarlierResponse
  intro i s r r2 c st hs hst hcout
  exact exec_withResponse (p := ⟨r, r2, c, st⟩) hs hst hcout

/-- A word that is offered while no reset is applied is accepted (70_reset_and_hazards.md R254). -/
theorem accepts_of_offered {s : State} (hrst : s.now.rst = false) (hvalid : s.now.cmdValid = true) :
    accepts s = true := by
  simp [accepts, cmdReady, hrst, hvalid]

theorem coreMoment_of_offered {s : State} (hrst : s.now.rst = false) (hvalid : s.now.cmdValid = true) :
    coreMoment s = runWord s := by
  simp [coreMoment, hrst, accepts_of_offered hrst hvalid]

theorem runWord_of_decode {s : State} {i : Instr} (h : decode s.now.cmd = some i) : runWord s = exec i s := by
  rw [runWord, h]

theorem thenAdvance_eq_mapNext (o : Result) : thenAdvance o = Spec.mapNext State.advance o := by
  cases o <;> rfl

theorem step_of_offered {s : State} (hreads : s.hostReadsHeld) (hrst : s.now.rst = false)
    (hvalid : s.now.cmdValid = true) : step s = thenAdvance (runWord s) := by
  rw [step_of_readsHeld hreads, coreMoment_of_offered hrst hvalid]

/-- Settles O2: the offered word is accepted and run, through `exec` where it decodes, and the host's move follows. -/
theorem stepRunsTheDecodedCommand : Obligations.StepRunsTheDecodedCommand := by
  unfold Obligations.StepRunsTheDecodedCommand
  intro s hreads hrst hvalid
  have hstep : step s = thenAdvance (runWord s) := step_of_offered hreads hrst hvalid
  refine ⟨hstep.trans (thenAdvance_eq_mapNext _), fun i hdecode => ?_⟩
  rw [hstep, runWord_of_decode hdecode]
  cases exec i s <;> rfl

end Sys2Proof.Machine
end

section
/-! PROOFS. The decoder on all words: which word decodes, to which command, and from which command a word comes
(30_encoding.md R61 to R69). -/

namespace Sys2Proof

open Spec Machine

/-! ### The rows of the opcode map, by format -/

theorem formatOf_eq_n_iff (opc : BitVec 8) : formatOf opc = some .n ↔ opc.toNat ∈ opcodesN := by
  revert opc
  decide

theorem formatOf_eq_c_iff (opc : BitVec 8) : formatOf opc = some .c ↔ opc.toNat ∈ opcodesC := by
  revert opc
  decide

theorem formatOf_eq_s_iff (opc : BitVec 8) : formatOf opc = some .s ↔ opc.toNat ∈ opcodesS := by
  revert opc
  decide

/-- A row of format N is the opcode of its command, which has no operand. -/
theorem commandN_eq_some {opc : BitVec 8} {i : Instr} (h : commandN opc = some i) :
    i.opcode = opc ∧ i.operandField = 0#24 ∧ i.wellFormed = true := by
  unfold commandN at h
  split at h <;> cases h <;> exact ⟨rfl, rfl, rfl⟩

/-- A row of format C is the opcode of its command, whose operand is the carry select. -/
theorem commandC_eq_some {opc : BitVec 8} {sel : CarrySel} {i : Instr} (h : commandC sel opc = some i) :
    i.opcode = opc ∧ i.operandField = 0#22 ++ sel.bits ∧ i.wellFormed = true := by
  unfold commandC at h
  split at h <;> cases h <;> exact ⟨rfl, rfl, rfl⟩

/-- A row of format S is the opcode of its command, whose operand is the shift amount. -/
theorem commandS_eq_some {opc : BitVec 8} {n : Nat} {i : Instr} (h : commandS n opc = some i) :
    i.opcode = opc ∧ i.operandField = 0#17 ++ BitVec.ofNat 7 n ∧ i.wellFormed = shamtFits n := by
  unfold commandS at h
  split at h <;> cases h <;> exact ⟨rfl, rfl, rfl⟩

theorem carrySelOf_bits (sel : CarrySel) : carrySelOf sel.bits = some sel := by
  cases sel <;> rfl

theorem carrySelOf_eq_some {c : BitVec 2} {sel : CarrySel} (h : carrySelOf c = some sel) : sel.bits = c := by
  unfold carrySelOf at h
  split at h <;> cases h <;> rfl

/-- CSEL = 11 alone selects no carry (30_encoding.md R63). -/
theorem carrySelOf_isSome_iff (c : BitVec 2) : (carrySelOf c).isSome = true ↔ c.toNat ≠ 3 := by
  revert c
  decide

/-! ### Inversion of the decoder -/

/-- Everything `decode` can answer a command for: a row of the word's format, where the reserved bits of that format are
0. -/
theorem decode_eq_some_iff (w : CmdWord) (i : Instr) : decode w = some i ↔
    (formatOf (opcOf w) = some .n ∧ w.toNat / 2 ^ 8 = 0 ∧ commandN (opcOf w) = some i) ∨
    (formatOf (opcOf w) = some .c ∧ w.toNat / 2 ^ 10 = 0 ∧
      ∃ sel, carrySelOf (cselOf w) = some sel ∧ commandC sel (opcOf w) = some i) ∨
    (formatOf (opcOf w) = some .s ∧ w.toNat / 2 ^ 15 = 0 ∧ commandS (shamtOf w).toNat (opcOf w) = some i) := by
  rw [← fieldN_clear_iff, ← fieldC_clear_iff, ← fieldS_clear_iff, decode]
  cases formatOf (opcOf w) with
  | none => simp
  | some f =>
    cases f with
    | n => simp
    | c => cases carrySelOf (cselOf w) <;> simp
    | s => simp

/-! ### The round trip -/

/-- A word is rebuilt from its operand field and its opcode (30_encoding.md R61, R62). -/
theorem encode_eq_of_fields {w : CmdWord} {i : Instr} (hopc : i.opcode = opcOf w)
    (hfield : i.operandField.toNat = w.toNat / 2 ^ 8) : encode i = w := by
  apply BitVec.eq_of_toNat_eq
  rw [encode_toNat, hfield, hopc, opcOf_toNat]
  omega

/-- What decodes is a well-formed command's own word. -/
theorem encode_of_decode {w : CmdWord} {i : Instr} (h : decode w = some i) : i.wellFormed = true ∧ encode i = w := by
  obtain ⟨-, hreserved, hrow⟩ | ⟨-, hreserved, sel, hsel, hrow⟩ | ⟨-, hreserved, hrow⟩ :=
    (decode_eq_some_iff w i).mp h
  · obtain ⟨hopc, hfield, hwf⟩ := commandN_eq_some hrow
    exact ⟨hwf, encode_eq_of_fields hopc (by rw [hfield, hreserved]; rfl)⟩
  · obtain ⟨hopc, hfield, hwf⟩ := commandC_eq_some hrow
    refine ⟨hwf, encode_eq_of_fields hopc ?_⟩
    rw [hfield, cselField_toNat, carrySelOf_eq_some hsel, cselOf_toNat]
    omega
  · obtain ⟨hopc, hfield, hwf⟩ := commandS_eq_some hrow
    have hamount := shamtOf_toNat w
    refine ⟨hwf.trans (decide_eq_true (by omega)), encode_eq_of_fields hopc ?_⟩
    rw [hfield, shamtField_toNat, hamount]
    omega

theorem opcOf_encode (i : Instr) : opcOf (encode i) = i.opcode := by
  apply BitVec.eq_of_toNat_eq
  have hopc := i.opcode.isLt
  rw [opcOf_toNat, encode_toNat]
  omega

theorem encode_toNat_div (i : Instr) : (encode i).toNat / 2 ^ 8 = i.operandField.toNat := by
  have hopc := i.opcode.isLt
  rw [encode_toNat]
  omega

/-- A format N command is read back from its row. -/
theorem decode_encode_of_commandN {i : Instr} (hformat : formatOf i.opcode = some .n)
    (hrow : commandN i.opcode = some i) : decode (encode i) = some i := by
  obtain ⟨-, hfield, -⟩ := commandN_eq_some hrow
  refine (decode_eq_some_iff _ _).mpr (.inl ?_)
  rw [opcOf_encode, encode_toNat_div, hfield]
  exact ⟨hformat, rfl, hrow⟩

/-- A format C command is read back from its row, with its carry select. -/
theorem decode_encode_of_commandC {i : Instr} (sel : CarrySel) (hformat : formatOf i.opcode = some .c)
    (hrow : commandC sel i.opcode = some i) : decode (encode i) = some i := by
  obtain ⟨-, hfield, -⟩ := commandC_eq_some hrow
  have hword : (encode i).toNat / 2 ^ 8 = sel.bits.toNat := by rw [encode_toNat_div, hfield, cselField_toNat]
  have hbits := sel.bits.isLt
  have hcsel : cselOf (encode i) = sel.bits := by
    apply BitVec.eq_of_toNat_eq
    rw [cselOf_toNat]
    omega
  refine (decode_eq_some_iff _ _).mpr (.inr (.inl ?_))
  rw [opcOf_encode, hcsel]
  exact ⟨hformat, by omega, sel, carrySelOf_bits sel, hrow⟩

/-- A format S command is read back from its row, with its amount when that fits SHAMT. -/
theorem decode_encode_of_commandS {i : Instr} {n : Nat} (hn : n ≤ 127) (hformat : formatOf i.opcode = some .s)
    (hrow : commandS n i.opcode = some i) : decode (encode i) = some i := by
  obtain ⟨-, hfield, -⟩ := commandS_eq_some hrow
  have hword : (encode i).toNat / 2 ^ 8 = n % 128 := by rw [encode_toNat_div, hfield, shamtField_toNat]
  have hshamt : (shamtOf (encode i)).toNat = n := by
    rw [shamtOf_toNat]
    omega
  refine (decode_eq_some_iff _ _).mpr (.inr (.inr ?_))
  rw [opcOf_encode, hshamt]
  exact ⟨hformat, by omega, hrow⟩

/-- Every well-formed command is read back from its word. -/
theorem decode_encode {i : Instr} (h : i.wellFormed = true) : decode (encode i) = some i := by
  cases i with
  | addc128 sel | subb128 sel | addc64 sel | subb64 sel => exact decode_encode_of_commandC sel rfl rfl
  | shli n | shri n => exact decode_encode_of_commandS (of_decide_eq_true h) rfl rfl
  | mulw64 | mul128 | divmod | trydivmod | udivmod | shl | shr | pack | split | frombLe | frombBe | frombNat | extz8
  | extz16 | extz32 | extz64 | exts8 | exts16 | exts32 | exts64 | rdcfg => exact decode_encode_of_commandN rfl rfl

/-- Settles O8: by the format of the word, its reserved bits being 0 and its operand field that of the row. -/
theorem decodeAndEncodeAreInverse : Obligations.DecodeAndEncodeAreInverse := by
  unfold Obligations.DecodeAndEncodeAreInverse
  exact ⟨fun _ => decode_encode, fun _ _ => encode_of_decode⟩

/-! ### Legal and illegal words -/

theorem commandN_isSome_of_format {opc : BitVec 8} (h : formatOf opc = some .n) : (commandN opc).isSome = true := by
  revert opc
  decide

theorem commandC_isSome_of_format {opc : BitVec 8} (h : formatOf opc = some .c) (sel : CarrySel) :
    (commandC sel opc).isSome = true := by
  cases sel <;> revert opc <;> decide

theorem commandS_isSome_of_format {opc : BitVec 8} (h : formatOf opc = some .s) (n : Nat) :
    (commandS n opc).isSome = true := by
  have hopc : opc = 0x32#8 ∨ opc = 0x33#8 := by
    revert opc
    decide
  obtain rfl | rfl := hopc <;> rfl

/-- The words that select a command (30_encoding.md R66): a listed OPC, the reserved bits of its format 0, and CSEL not
11. -/
theorem decode_isSome_iff (w : CmdWord) : (decode w).isSome = true ↔
    (w.toNat % 256 ∈ opcodesN ∧ w.toNat / 2 ^ 8 = 0) ∨
    (w.toNat % 256 ∈ opcodesC ∧ w.toNat / 2 ^ 10 = 0 ∧ w.toNat / 2 ^ 8 % 4 ≠ 3) ∨
    (w.toNat % 256 ∈ opcodesS ∧ w.toNat / 2 ^ 15 = 0) := by
  simp only [← opcOf_toNat, ← cselOf_toNat, ← formatOf_eq_n_iff, ← formatOf_eq_c_iff, ← formatOf_eq_s_iff,
    ← carrySelOf_isSome_iff, Option.isSome_iff_exists, decode_eq_some_iff]
  constructor
  · rintro ⟨i, ⟨hformat, hreserved, -⟩ | ⟨hformat, hreserved, sel, hsel, -⟩ | ⟨hformat, hreserved, -⟩⟩
    · exact .inl ⟨hformat, hreserved⟩
    · exact .inr (.inl ⟨hformat, hreserved, sel, hsel⟩)
    · exact .inr (.inr ⟨hformat, hreserved⟩)
  · rintro (⟨hformat, hreserved⟩ | ⟨hformat, hreserved, sel, hsel⟩ | ⟨hformat, hreserved⟩)
    · obtain ⟨i, hrow⟩ := Option.isSome_iff_exists.mp (commandN_isSome_of_format hformat)
      exact ⟨i, .inl ⟨hformat, hreserved, hrow⟩⟩
    · obtain ⟨i, hrow⟩ := Option.isSome_iff_exists.mp (commandC_isSome_of_format hformat sel)
      exact ⟨i, .inr (.inl ⟨hformat, hreserved, sel, hsel, hrow⟩)⟩
    · obtain ⟨i, hrow⟩ := Option.isSome_iff_exists.mp (commandS_isSome_of_format hformat (shamtOf w).toNat)
      exact ⟨i, .inr (.inr ⟨hformat, hreserved, hrow⟩)⟩

/-- The words of R67 are the ones that R66 leaves over, since an opcode has one format. -/
theorem decode_eq_none_iff (w : CmdWord) : decode w = none ↔ illegalWord w := by
  rw [← Option.not_isSome_iff_eq_none, decode_isSome_iff, illegalWord]
  simp only [← opcOf_toNat, ← formatOf_eq_n_iff, ← formatOf_eq_c_iff, ← formatOf_eq_s_iff]
  cases formatOf (opcOf w) with
  | none => simp
  | some f =>
    cases f with
    | n => simp
    | c => simp [imp_iff_not_or]
    | s => simp

theorem runWord_of_illegal {s : State} (hs : s.faulted = false) (h : illegalWord s.now.cmd) :
    runWord s = .next (s.endWith .illegal) := by
  rw [runWord, (decode_eq_none_iff _).mpr h, raiseIllegal, unlessFaulted_live hs]

/-- Settles O6: an illegal word is one that selects no command, and it ends in ILLEGAL. -/
theorem illegalWordsAreExactlyThese : Obligations.IllegalWordsAreExactlyThese := by
  unfold Obligations.IllegalWordsAreExactlyThese
  exact ⟨decode_eq_none_iff, fun _ hs h => runWord_of_illegal hs h⟩

/-! ### The map written out -/

/-- A row of the opcode map, with its word as a number. -/
theorem decode_ofNat {i : Instr} {n : Nat} (h : i.wellFormed = true) (hn : (encode i).toNat = n) :
    decode (BitVec.ofNat 32 n) = some i := by
  rw [← hn, BitVec.ofNat_toNat, BitVec.setWidth_eq, decode_encode h]

theorem CarrySel.bits_toNat (sel : CarrySel) : sel.bits.toNat = cselNumber sel := by
  cases sel <;> rfl

/-- A format C row at every CSEL. -/
theorem decode_csel_row {op : CarrySel → Instr} {sel : CarrySel} {opc : Nat} (hwf : (op sel).wellFormed = true)
    (hfield : (op sel).operandField = 0#22 ++ sel.bits) (hopc : (op sel).opcode.toNat = opc) :
    decode (BitVec.ofNat 32 (opc + 256 * cselNumber sel)) = some (op sel) := by
  refine decode_ofNat hwf ?_
  rw [encode_toNat, hfield, cselField_toNat, CarrySel.bits_toNat, hopc]
  omega

/-- A format S row at every SHAMT. -/
theorem decode_shamt_row {op : Nat → Instr} {n opc : Nat} (hn : n ≤ 127) (hwf : (op n).wellFormed = shamtFits n)
    (hfield : (op n).operandField = 0#17 ++ BitVec.ofNat 7 n) (hopc : (op n).opcode.toNat = opc) :
    decode (BitVec.ofNat 32 (opc + 256 * n)) = some (op n) := by
  refine decode_ofNat (hwf.trans (decide_eq_true hn)) ?_
  rw [encode_toNat, hfield, shamtField_toNat, hopc]
  omega

/-- Settles O7: each row is its command's own word, and what decodes is legal. -/
theorem opcodeMapSelectsCommands : Obligations.OpcodeMapSelectsCommands := by
  unfold Obligations.OpcodeMapSelectsCommands
  refine ⟨fun sel => ⟨?_, ?_, ?_, ?_⟩, ?_, fun n hn => ⟨?_, ?_⟩, ?_, fun w => (decode_isSome_iff w).mp⟩
  · exact decode_csel_row rfl rfl rfl
  · exact decode_csel_row rfl rfl rfl
  · exact decode_csel_row rfl rfl rfl
  · exact decode_csel_row rfl rfl rfl
  · and_intros <;> exact decode_ofNat rfl rfl
  · exact decode_shamt_row hn rfl rfl rfl
  · exact decode_shamt_row hn rfl rfl rfl
  · and_intros <;> exact decode_ofNat rfl rfl

/-- Settles O9: eight words are the words of the commands beside them, and four are illegal (30_encoding.md R67). -/
theorem writtenWordsDecode : Obligations.WrittenWordsDecode := by
  unfold Obligations.WrittenWordsDecode
  refine ⟨decode_ofNat rfl rfl, decode_ofNat rfl rfl, decode_ofNat rfl rfl, decode_ofNat rfl rfl,
    decode_ofNat rfl rfl, decode_ofNat rfl rfl, decode_ofNat rfl rfl, decode_ofNat rfl rfl, ?_, ?_, ?_, ?_⟩
  · exact (decode_eq_none_iff _).mpr (.inr (.inr (.inl (by decide))))
  · exact (decode_eq_none_iff _).mpr (.inr (.inl (by decide)))
  · exact (decode_eq_none_iff _).mpr (.inr (.inr (.inr (by decide))))
  · exact (decode_eq_none_iff _).mpr (.inl (by decide))

/-- CSEL = 11 is illegal in every format C command (30_encoding.md R63). -/
theorem decode_csel_reserved {opc : Nat} (h : opc ∈ opcodesC) : decode (BitVec.ofNat 32 (opc + 0x300)) = none := by
  have hsmall : opc < 256 := by
    revert opc
    decide
  have hword : (BitVec.ofNat 32 (opc + 0x300)).toNat = opc + 0x300 := Nat.mod_eq_of_lt (by omega)
  refine (decode_eq_none_iff _).mpr (.inr (.inr (.inl ⟨?_, .inr ?_⟩)))
  · rw [hword, show (opc + 0x300) % 256 = opc by omega]
    exact h
  · omega

/-- A format C opcode is one command under the three selects. -/
theorem decode_csel_selects {op : CarrySel → Instr} {opc : Nat} (hop : op ∈ [.addc128, .subb128, .addc64, .subb64])
    (hrow : ∀ sel, decode (BitVec.ofNat 32 (opc + 256 * cselNumber sel)) = some (op sel)) :
    ∃ op : CarrySel → Instr, op ∈ [.addc128, .subb128, .addc64, .subb64] ∧
      decode (BitVec.ofNat 32 opc) = some (op .zero) ∧
      decode (BitVec.ofNat 32 (opc + 0x100)) = some (op .port) ∧
      decode (BitVec.ofNat 32 (opc + 0x200)) = some (op .chain) :=
  ⟨op, hop, hrow .zero, hrow .port, hrow .chain⟩

/-- Settles O10: by the four rows of format C. -/
theorem carrySelectField : Obligations.CarrySelectField := by
  unfold Obligations.CarrySelectField
  refine ⟨fun s => ⟨rfl, rfl, rfl⟩, fun opc hopc => ⟨?_, decode_csel_reserved hopc⟩⟩
  simp only [opcodesC, List.mem_cons, List.not_mem_nil, or_false] at hopc
  obtain rfl | rfl | rfl | rfl := hopc
  · exact decode_csel_selects (op := .addc128) (by simp) fun _ => decode_csel_row rfl rfl rfl
  · exact decode_csel_selects (op := .subb128) (by simp) fun _ => decode_csel_row rfl rfl rfl
  · exact decode_csel_selects (op := .addc64) (by simp) fun _ => decode_csel_row rfl rfl rfl
  · exact decode_csel_selects (op := .subb64) (by simp) fun _ => decode_csel_row rfl rfl rfl

end Sys2Proof
end

section
/-! PROOFS. The input ports as an input: which of their bits a command reads (30_encoding.md R65; 10_state.md R26). -/

namespace Sys2Proof.Machine

/-- The state with the port levels and the host's part of the move `m` (10_state.md R26). -/
def State.withNow (m : HostMove) (s : State) : State := { s with now := m }

@[simp] theorem State.withNow_now (m : HostMove) (s : State) : (s.withNow m).now = m := rfl
@[simp] theorem State.withNow_cfg (m : HostMove) (s : State) : (s.withNow m).cfg = s.cfg := rfl
@[simp] theorem State.faulted_withNow (m : HostMove) (s : State) : (s.withNow m).faulted = s.faulted := rfl

theorem State.respond_withNow (m : HostMove) (s : State) (v w : Word) (k : Bit) :
    (s.withNow m).respond v w k = (s.respond v w k).withNow m := rfl

theorem State.respondOne_withNow (m : HostMove) (s : State) (v : Word) :
    (s.withNow m).respondOne v = (s.respondOne v).withNow m := rfl

theorem State.endWith_withNow (m : HostMove) (s : State) (code : StatusCode) :
    (s.withNow m).endWith code = (s.endWith code).withNow m := rfl

/-! ### Operand views of levels that agree on the bits viewed -/

theorem low_congr {n : Nat} {v w : Word} (h : v.toNat % 2 ^ n = w.toNat % 2 ^ n) : low n v = low n w := by
  apply BitVec.eq_of_toNat_eq
  rw [low_toNat, low_toNat, h]

theorem lowLimb_congr {v w : Word} (h : v.toNat % 2 ^ 64 = w.toNat % 2 ^ 64) : lowLimb v = lowLimb w := by
  apply BitVec.eq_of_toNat_eq
  rw [lowLimb_toNat, lowLimb_toNat, h]

/-- Levels that agree on all 128 bits are equal. -/
theorem word_congr {v w : Word} (h : v.toNat % 2 ^ 128 = w.toNat % 2 ^ 128) : v = w := by
  apply BitVec.eq_of_toNat_eq
  rwa [Nat.mod_eq_of_lt v.isLt, Nat.mod_eq_of_lt w.isLt] at h

/-- Port `cin` is read under PORT alone (30_encoding.md R63). -/
theorem carryIn_withNow {m : HostMove} {sel : CarrySel} {s : State} (h : sel = .port → m.cin = s.now.cin) :
    carryIn sel (s.withNow m) = carryIn sel s := by
  cases sel with
  | zero | chain => rfl
  | port => exact h rfl

theorem divideOr_withNow {m : HostMove} (code : StatusCode) {s : State} (ha : m.a = s.now.a) (hb : m.b = s.now.b) :
    divideOr code (s.withNow m) = (divideOr code s).withNow m := by
  by_cases hzero : s.now.b.toNat = 0
  · rw [divideOr_zero hzero, divideOr_zero (by rwa [State.withNow_now, hb]), State.endWith_withNow]
  · rw [divideOr_pos hzero, divideOr_pos (by rwa [State.withNow_now, hb]), State.respond_withNow, State.withNow_now,
      ha, hb]

theorem shiftByPort_withNow {m : HostMove} (shift : Word → Nat → Word) {s : State} (ha : m.a = s.now.a)
    (hb : m.b = s.now.b) : shiftByPort shift (s.withNow m) = (shiftByPort shift s).withNow m := by
  by_cases hrange : s.now.b.toNat < 128
  · rw [shiftByPort_inRange hrange, shiftByPort_inRange (by rwa [State.withNow_now, hb]), State.respond_withNow,
      State.withNow_now, ha, hb]
  · have hrange := Nat.not_lt.mp hrange
    rw [shiftByPort_outOfRange hrange, shiftByPort_outOfRange (by rwa [State.withNow_now, hb]), State.endWith_withNow]

/-- A command computes its effect from the bits that `portsRead` names: on levels that agree there the effect is the
same. -/
theorem exec_withNow {i : Instr} {s : State} {m : HostMove}
    (ha : m.a.toNat % 2 ^ (portsRead i).aBits = s.now.a.toNat % 2 ^ (portsRead i).aBits)
    (hb : m.b.toNat % 2 ^ (portsRead i).bBits = s.now.b.toNat % 2 ^ (portsRead i).bBits)
    (hcin : (portsRead i).cin = true → m.cin = s.now.cin) :
    exec i (s.withNow m) = Spec.mapNext (State.withNow m) (exec i s) := by
  have hf : (s.withNow m).faulted = s.faulted := State.faulted_withNow m s
  cases i with
  | addc128 sel | subb128 sel =>
    have hcarry : carryIn sel (s.withNow m) = carryIn sel s := carryIn_withNow fun h => hcin (decide_eq_true h)
    refine exec_commutes_of_effect hf rfl ?_
    simp only [exec, execAddc128, execSubb128, hcarry, State.withNow_now, State.respond_withNow, word_congr ha,
      word_congr hb]
  | addc64 sel | subb64 sel =>
    have hcarry : carryIn sel (s.withNow m) = carryIn sel s := carryIn_withNow fun h => hcin (decide_eq_true h)
    refine exec_commutes_of_effect hf rfl ?_
    simp only [exec, execAddc64, execSubb64, hcarry, State.withNow_now, State.respond_withNow, lowLimb_congr ha,
      lowLimb_congr hb]
  | mulw64 | pack =>
    refine exec_commutes_of_effect hf rfl ?_
    simp only [exec, execMulw64, execPack, State.withNow_now, State.respondOne_withNow, lowLimb_congr ha,
      lowLimb_congr hb]
  | mul128 =>
    refine exec_commutes_of_effect hf rfl ?_
    rw [exec, execMul128, State.withNow_now, word_congr ha, word_congr hb, State.respondOne_withNow]
  | divmod | trydivmod | udivmod =>
    exact exec_commutes_of_effect hf rfl
      (congrArg (unlessFaulted _) (divideOr_withNow _ (word_congr ha) (word_congr hb)))
  | shl | shr =>
    exact exec_commutes_of_effect hf rfl
      (congrArg (unlessFaulted _) (shiftByPort_withNow _ (word_congr ha) (word_congr hb)))
  | shli _ | shri _ | split | frombLe | frombBe | frombNat =>
    refine exec_commutes_of_effect hf rfl ?_
    simp only [exec, execShli, execShri, execSplit, execFrombLe, execFrombBe, execFrombNat, State.withNow_now,
      State.withNow_cfg, State.respond_withNow, State.respondOne_withNow, word_congr ha]
  | extz8 | extz16 | extz32 | extz64 =>
    exact exec_commutes_of_effect hf rfl
      (congrArg (fun v => unlessFaulted (s.withNow m) (State.withNow m (s.respondOne (zext v)))) (low_congr ha))
  | exts8 | exts16 | exts32 | exts64 =>
    exact exec_commutes_of_effect hf rfl
      (congrArg (fun v => unlessFaulted (s.withNow m) (State.withNow m (s.respondOne (sext v)))) (low_congr ha))
  | rdcfg => exact exec_commutes_of_effect hf rfl rfl

/-- Settles O52: of the ports only the bits that a command's rule names reach its effect. -/
theorem unreadPortBitsDoNotMatter : Obligations.UnreadPortBitsDoNotMatter := by
  unfold Obligations.UnreadPortBitsDoNotMatter
  intro i s m ha hb hcin
  exact exec_withNow ha hb hcin

end Sys2Proof.Machine
end

section
/-! PROOFS. The pseudo-commands: the values of their operators, and the commands they stand for (30_encoding.md R71,
R72). -/

namespace Sys2Proof.Machine

/-! ### The arithmetic of a command as the source operator -/

/-- With no carry in, the sum is the sum mod 2^n. -/
theorem addWithCarry_zero_fst {n : Nat} (x y : BitVec n) : (addWithCarry x y 0#1).1 = x + y := by
  apply BitVec.eq_of_toNat_eq
  simp [addWithCarry]

/-- With no borrow in, the difference is the difference mod 2^n. -/
theorem subWithBorrow_zero_fst {n : Nat} (x y : BitVec n) : (subWithBorrow x y 0#1).1 = x - y := by
  apply BitVec.eq_of_toInt_eq
  rw [BitVec.toInt_sub, BitVec.toInt_eq_toNat_bmod x, BitVec.toInt_eq_toNat_bmod y]
  simp [subWithBorrow]

theorem udivmod_eq (x y : Word) : udivmod x y = (x / y, x % y) := by
  refine Prod.ext (BitVec.eq_of_toNat_eq ?_) (BitVec.eq_of_toNat_eq ?_)
  · rw [udivmod_fst_toNat, BitVec.toNat_udiv]
  · rw [udivmod_snd_toNat, BitVec.toNat_umod]

/-- A divide command whose divisor is not 0 leaves quotient and remainder (42_divider.md R140). -/
theorem divideOr_of_ne_zero {code : StatusCode} {s : State} (h : s.now.b ≠ 0#128) :
    divideOr code s = s.respond (s.now.a / s.now.b) (s.now.a % s.now.b) 0#1 := by
  have hpos : s.now.b.toNat ≠ 0 := fun hzero => h (BitVec.eq_of_toNat_eq hzero)
  rw [divideOr_pos hpos, udivmod_eq]

theorem zext_low_eq {n : Nat} (hn : n ≤ 128) (v : Word) : zext (low n v) = BitVec.ofNat 128 (v.toNat % 2 ^ n) := by
  rw [← low_toNat, ← zext_toNat hn, BitVec.ofNat_toNat, BitVec.setWidth_eq]

/-- Sixteen digits weighted in base `b`, the first one most significant, by Horner's rule. (The base is a variable: with
256 in its place the checker would count the weights up in unary.) -/
theorem sum_digits_eq_horner (f : Nat → Nat) (b : Nat) :
    ((List.range 16).map fun i => f i * b ^ (15 - i)).sum =
      ((((((((((((((f 0 * b + f 1) * b + f 2) * b + f 3) * b + f 4) * b + f 5) * b + f 6) * b + f 7) * b +
        f 8) * b + f 9) * b + f 10) * b + f 11) * b + f 12) * b + f 13) * b + f 14) * b + f 15 := by
  simp only [List.range, List.range.loop, List.map_cons, List.map_nil, List.sum_cons, List.sum_nil]
  ring

/-- Reversing the lanes reads the image in big-endian order (44_converter.md R183, R185). -/
theorem bswap128_toNat_eq_bigEndianSum (v : Word) : (bswap128 v).toNat = Spec.bigEndianSum v := by
  have hweight (i : Nat) : 2 ^ (8 * (15 - i)) = 256 ^ (15 - i) := pow_mul 2 8 (15 - i)
  simp only [Spec.bigEndianSum, ← lane_toNat, hweight]
  exact (bswap128_toNat v).trans (sum_digits_eq_horner (fun i => (lane v i).toNat) 256).symm

theorem bswap128_eq_bigEndianSum (v : Word) : bswap128 v = BitVec.ofNat 128 (Spec.bigEndianSum v) := by
  rw [← bswap128_toNat_eq_bigEndianSum, BitVec.ofNat_toNat, BitVec.setWidth_eq]

theorem fromNative_eq (order : ByteOrder) (v : Word) :
    fromNative order v = if order = .le then v else BitVec.ofNat 128 (Spec.bigEndianSum v) := by
  cases order with
  | le => rfl
  | be => exact bswap128_eq_bigEndianSum v

/-! ### What a live command leaves -/

theorem resultOf_live {i : Instr} {s e : State} (hs : s.faulted = false) (h : exec i s = unlessFaulted s e) :
    resultOf i s = e.r := by
  rw [resultOf, h, unlessFaulted_live hs]

theorem secondResultOf_live {i : Instr} {s e : State} (hs : s.faulted = false) (h : exec i s = unlessFaulted s e) :
    secondResultOf i s = e.r2 := by
  rw [secondResultOf, h, unlessFaulted_live hs]

/-- The state with an ISSUE line on its ports (30_encoding.md R71). -/
def State.issue (s : State) (line : IssueLine) : State := { s with now := s.now.issueLine line }

@[simp] theorem State.faulted_issue (s : State) (line : IssueLine) : (s.issue line).faulted = s.faulted := rfl

/-- The word of a pseudo-command is that of the command it stands for. -/
theorem decode_issueLine (m : HostMove) (p : Pseudo) (x y : Int) :
    decode (m.issueLine (p.expand x y)).cmd = some (p.expand x y).command :=
  decode_encode (by cases p <;> rfl)

/-- MOD leaves the operator's value in R2. -/
theorem secondResultOf_mod {x y : Int} {s : State} (hs : s.faulted = false) (hy : BitVec.ofInt 128 y ≠ 0#128) :
    secondResultOf .divmod (s.issue (Pseudo.mod.expand x y)) = some (BitVec.ofInt 128 x % BitVec.ofInt 128 y) :=
  have hlive : (s.issue (Pseudo.mod.expand x y)).faulted = false := (s.faulted_issue _).trans hs
  (secondResultOf_live hlive rfl).trans (congrArg State.r2 (divideOr_of_ne_zero hy))

/-- Every other pseudo-command leaves the operator's value in R. -/
theorem resultOf_pseudo {p : Pseudo} {x y : Int} {s : State} (hs : s.faulted = false) (hmod : p ≠ .mod)
    (hdiv : p = .div → BitVec.ofInt 128 y ≠ 0#128) :
    resultOf (p.expand x y).command (s.issue (p.expand x y)) =
      some (Spec.pseudoValue p s.cfg.byteOrder (BitVec.ofInt 128 x) (BitVec.ofInt 128 y)) := by
  have hlive : (s.issue (p.expand x y)).faulted = false := (s.faulted_issue _).trans hs
  cases p with
  | add | inc => exact (resultOf_live hlive rfl).trans (congrArg some (addWithCarry_zero_fst _ _))
  | pos =>
    exact (resultOf_live hlive rfl).trans (congrArg some ((addWithCarry_zero_fst _ _).trans (BitVec.add_zero _)))
  | sub | dec => exact (resultOf_live hlive rfl).trans (congrArg some (subWithBorrow_zero_fst _ _))
  | neg =>
    exact (resultOf_live hlive rfl).trans (congrArg some ((subWithBorrow_zero_fst _ _).trans (BitVec.zero_sub _)))
  | div => exact (resultOf_live hlive rfl).trans (congrArg State.r (divideOr_of_ne_zero (hdiv rfl)))
  | mod => exact absurd rfl hmod
  | tobLe => exact (resultOf_live hlive rfl).trans rfl
  | tobBe => exact (resultOf_live hlive rfl).trans (congrArg some (bswap128_eq_bigEndianSum _))
  | tobNat => exact (resultOf_live hlive rfl).trans (congrArg some (fromNative_eq _ _))
  | trunc8 | trunc16 | trunc32 | trunc64 =>
    exact (resultOf_live hlive rfl).trans (congrArg some (zext_low_eq (by decide) _))

/-- Settles O45: a pseudo-command's word is read back as its command, whose effect is the operator on the operands
mod 2^128. -/
theorem pseudoCommandsGiveTheirOperators : Obligations.PseudoCommandsGiveTheirOperators := by
  unfold Obligations.PseudoCommandsGiveTheirOperators
  intro p x y s hs hy
  refine ⟨decode_issueLine s.now p x y, ?_⟩
  by_cases hmod : p = .mod
  · subst hmod
    rw [if_pos rfl]
    exact secondResultOf_mod hs (hy (.inr rfl))
  · rw [if_neg hmod]
    exact resultOf_pseudo hs hmod fun hdiv => hy (.inl hdiv)

end Sys2Proof.Machine
end

section
/-! PROOFS. The adder family in a live state: exact sums and differences, their laws, their limb composition and chains of
limbs (40_adder.md R100 to R105). -/

namespace Sys2Proof.Machine

/-! ### What each command leaves -/

theorem exec_addc128_live {s : State} (hs : s.faulted = false) (sel : CarrySel) :
    exec (.addc128 sel) s = .next (s.respond (addWithCarry s.now.a s.now.b (carryIn sel s)).1 0#128
      (addWithCarry s.now.a s.now.b (carryIn sel s)).2) :=
  unlessFaulted_live hs _

theorem exec_subb128_live {s : State} (hs : s.faulted = false) (sel : CarrySel) :
    exec (.subb128 sel) s = .next (s.respond (subWithBorrow s.now.a s.now.b (carryIn sel s)).1 0#128
      (subWithBorrow s.now.a s.now.b (carryIn sel s)).2) :=
  unlessFaulted_live hs _

theorem exec_addc64_live {s : State} (hs : s.faulted = false) (sel : CarrySel) :
    exec (.addc64 sel) s =
      .next (s.respond (zext (addWithCarry (lowLimb s.now.a) (lowLimb s.now.b) (carryIn sel s)).1) 0#128
        (addWithCarry (lowLimb s.now.a) (lowLimb s.now.b) (carryIn sel s)).2) :=
  unlessFaulted_live hs _

theorem exec_subb64_live {s : State} (hs : s.faulted = false) (sel : CarrySel) :
    exec (.subb64 sel) s =
      .next (s.respond (zext (subWithBorrow (lowLimb s.now.a) (lowLimb s.now.b) (carryIn sel s)).1) 0#128
        (subWithBorrow (lowLimb s.now.a) (lowLimb s.now.b) (carryIn sel s)).2) :=
  unlessFaulted_live hs _

/-! ### The writes as R100 to R103 give them -/

/-- Settles O11: ADDC128's sum is the exact one mod 2^128, and its carry tells whether that wrapped. -/
theorem addc128WritesSumAndCarry : Obligations.Addc128WritesSumAndCarry := by
  unfold Obligations.Addc128WritesSumAndCarry
  exact ⟨⟨decode_ofNat rfl rfl, decode_ofNat rfl rfl, decode_ofNat rfl rfl⟩,
    fun sel _ hs => exec_addc128_live hs sel⟩

/-- Settles O12: SUBB128's difference is the exact one mod 2^128, and its borrow tells whether that was negative. -/
theorem subb128WritesDifferenceAndBorrow : Obligations.Subb128WritesDifferenceAndBorrow := by
  unfold Obligations.Subb128WritesDifferenceAndBorrow
  exact ⟨⟨decode_ofNat rfl rfl, decode_ofNat rfl rfl, decode_ofNat rfl rfl⟩,
    fun sel _ hs => exec_subb128_live hs sel⟩

/-- A sum mod 2^n, zero-extended. -/
theorem zext_ofNat {n : Nat} (k : Nat) : zext (BitVec.ofNat n k) = BitVec.ofNat 128 (k % 2 ^ n) := by
  rw [zext, ← BitVec.ofNat_toNat, BitVec.toNat_ofNat]

/-- A difference mod 2^n, zero-extended. -/
theorem zext_ofInt {n : Nat} (d : Int) : zext (BitVec.ofInt n d) = BitVec.ofInt 128 (d % 2 ^ n) := by
  have hnonneg : 0 ≤ d % 2 ^ n := Int.emod_nonneg d (by positivity)
  rw [zext, ← BitVec.ofNat_toNat, BitVec.toNat_ofInt, ← BitVec.ofInt_natCast]
  push_cast
  rw [Int.toNat_of_nonneg hnonneg]

/-- The low limbs sum to what R100 sums. -/
theorem sum64_eq (sel : CarrySel) (s : State) :
    Spec.sum64 sel s = (lowLimb s.now.a).toNat + (lowLimb s.now.b).toNat + (carryIn sel s).toNat := by
  rw [Spec.sum64, lowLimb_toNat, lowLimb_toNat]

/-- The low limbs differ by what R101 says. -/
theorem difference64_eq (sel : CarrySel) (s : State) :
    Spec.difference64 sel s =
      ((lowLimb s.now.a).toNat : Int) - (lowLimb s.now.b).toNat - (carryIn sel s).toNat := by
  rw [Spec.difference64, lowLimb_toNat, lowLimb_toNat]

/-- Settles O13: ADDC64's sum is the exact one of the low limbs mod 2^64, zero-extended. -/
theorem addc64WritesLimbSumAndCarry : Obligations.Addc64WritesLimbSumAndCarry := by
  unfold Obligations.Addc64WritesLimbSumAndCarry
  refine ⟨⟨decode_ofNat rfl rfl, decode_ofNat rfl rfl, decode_ofNat rfl rfl⟩, fun sel s hs => ?_⟩
  rw [sum64_eq, ← zext_ofNat]
  exact exec_addc64_live hs sel

/-- Settles O14: SUBB64's difference is the exact one of the low limbs mod 2^64, zero-extended. -/
theorem subb64WritesLimbDifferenceAndBorrow : Obligations.Subb64WritesLimbDifferenceAndBorrow := by
  unfold Obligations.Subb64WritesLimbDifferenceAndBorrow
  refine ⟨⟨decode_ofNat rfl rfl, decode_ofNat rfl rfl, decode_ofNat rfl rfl⟩, fun sel s hs => ?_⟩
  rw [difference64_eq, ← zext_ofInt]
  exact exec_subb64_live hs sel

/-! ### The pair (COUT, R) is exact -/

/-- `v` and the carry out `k` hold the exact sum of the low `n` bits of `x` and `y` and the carry in `c`. -/
def SumsLimb (n : Nat) (x y : Word) (c : Bit) (v : Word) (k : Bit) : Prop :=
  v.toNat < 2 ^ n ∧ k.toNat * 2 ^ n + v.toNat = x.toNat % 2 ^ n + y.toNat % 2 ^ n + c.toNat

/-- `v` and the borrow out `k` hold the exact difference of the low `n` bits of `x` and `y` less the borrow in `c`. -/
def SubtractsLimb (n : Nat) (x y : Word) (c : Bit) (v : Word) (k : Bit) : Prop :=
  v.toNat < 2 ^ n ∧ x.toNat % 2 ^ n + k.toNat * 2 ^ n = v.toNat + y.toNat % 2 ^ n + c.toNat

/-- In every live state and at every CSEL the command responds with R2 = 0, and with an R and a COUT that stand in the
relation `Rel` to the operands and the carry in. -/
def Computes (op : CarrySel → Instr) (Rel : Word → Word → Bit → Word → Bit → Prop) : Prop :=
  ∀ (sel : CarrySel) (s : State), s.faulted = false →
    ∃ v k, exec (op sel) s = .next (s.respond v 0#128 k) ∧ Rel s.now.a s.now.b (carryIn sel s) v k

theorem word_toNat_mod (v : Word) : v.toNat % 2 ^ 128 = v.toNat := Nat.mod_eq_of_lt v.isLt

theorem zext_limb_toNat_lt (v : Limb) : (zext v).toNat < 2 ^ 64 := by
  rw [zext_toNat (by decide)]
  exact v.isLt

theorem addc128_computes : Computes .addc128 (SumsLimb 128) := fun sel _ hs =>
  ⟨_, _, exec_addc128_live hs sel, BitVec.isLt _, by
    rw [word_toNat_mod, word_toNat_mod]
    exact addWithCarry_exact _ _ _⟩

theorem subb128_computes : Computes .subb128 (SubtractsLimb 128) := fun sel _ hs =>
  ⟨_, _, exec_subb128_live hs sel, BitVec.isLt _, by
    rw [word_toNat_mod, word_toNat_mod]
    exact subWithBorrow_exact _ _ _⟩

theorem addc64_computes : Computes .addc64 (SumsLimb 64) := fun sel _ hs =>
  ⟨_, _, exec_addc64_live hs sel, zext_limb_toNat_lt _, by
    rw [zext_toNat (by decide), ← lowLimb_toNat, ← lowLimb_toNat]
    exact addWithCarry_exact _ _ _⟩

theorem subb64_computes : Computes .subb64 (SubtractsLimb 64) := fun sel _ hs =>
  ⟨_, _, exec_subb64_live hs sel, zext_limb_toNat_lt _, by
    rw [zext_toNat (by decide), ← lowLimb_toNat, ← lowLimb_toNat]
    exact subWithBorrow_exact _ _ _⟩

/-- Settles O15: at 128 bits the low bits are the whole operands. -/
theorem carryAndResultAreExact : Obligations.CarryAndResultAreExact := by
  unfold Obligations.CarryAndResultAreExact
  intro sel s hs
  refine ⟨?_, ?_, addc64_computes sel s hs, subb64_computes sel s hs⟩
  · obtain ⟨v, k, hexec, -, hsum⟩ := addc128_computes sel s hs
    rw [word_toNat_mod, word_toNat_mod] at hsum
    exact ⟨v, k, hexec, hsum⟩
  · obtain ⟨v, k, hexec, -, hdiff⟩ := subb128_computes sel s hs
    rw [word_toNat_mod, word_toNat_mod] at hdiff
    exact ⟨v, k, hexec, hdiff⟩

/-! ### The ring laws -/

theorem responseOf_of_exec {i : Instr} {s t : State} (h : exec i s = .next t) : responseOf i s = some t.response := by
  rw [responseOf, h]

/-- ADD (30_encoding.md R72) leaves the sum mod 2^128. -/
theorem resultOf_add {s : State} (hs : s.faulted = false) (x y : Word) :
    resultOf (.addc128 .zero) (s.withOperands x y) = some (x + y) :=
  (resultOf_live (s := s.withOperands x y) hs rfl).trans (congrArg some (addWithCarry_zero_fst x y))

/-- SUB (30_encoding.md R72) leaves the difference mod 2^128. -/
theorem resultOf_sub {s : State} (hs : s.faulted = false) (x y : Word) :
    resultOf (.subb128 .zero) (s.withOperands x y) = some (x - y) :=
  (resultOf_live (s := s.withOperands x y) hs rfl).trans (congrArg some (subWithBorrow_zero_fst x y))

theorem responseOf_add {s : State} (hs : s.faulted = false) (x y : Word) :
    responseOf (.addc128 .zero) (s.withOperands x y) =
      some ⟨some (addWithCarry x y 0#1).1, some 0#128, (addWithCarry x y 0#1).2, 0x0#4⟩ :=
  responseOf_of_exec (exec_addc128_live (s := s.withOperands x y) hs .zero)

theorem responseOf_sub {s : State} (hs : s.faulted = false) (x y : Word) :
    responseOf (.subb128 .zero) (s.withOperands x y) =
      some ⟨some (subWithBorrow x y 0#1).1, some 0#128, (subWithBorrow x y 0#1).2, 0x0#4⟩ :=
  responseOf_of_exec (exec_subb128_live (s := s.withOperands x y) hs .zero)

/-- Adding nothing carries nothing. -/
theorem addWithCarry_zero_zero {n : Nat} (x : BitVec n) : addWithCarry x 0#n 0#1 = (x, 0#1) := by
  refine Prod.ext ((addWithCarry_zero_fst x 0#n).trans (BitVec.add_zero x)) ?_
  simp [addWithCarry, carryOut, x.isLt]

/-- With no borrow in, the borrow out is the unsigned comparison. -/
theorem subWithBorrow_zero_snd {n : Nat} (x y : BitVec n) :
    (subWithBorrow x y 0#1).2 = if x.toNat < y.toNat then 1#1 else 0#1 := by
  simp [subWithBorrow, borrowOut]

/-- Subtracting a value from itself borrows nothing. -/
theorem subWithBorrow_self {n : Nat} (x : BitVec n) : subWithBorrow x x 0#1 = (0#n, 0#1) := by
  refine Prod.ext ((subWithBorrow_zero_fst x x).trans (BitVec.sub_self x)) ?_
  rw [subWithBorrow_zero_snd, if_neg (lt_irrefl _)]

/-- Settles O16: with CSEL ZERO, R is the ring operation and SUB's COUT the comparison. -/
theorem addAndSubAreRingOperations : Obligations.AddAndSubAreRingOperations := by
  unfold Obligations.AddAndSubAreRingOperations
  intro s x y hs
  refine ⟨resultOf_add hs x y, resultOf_sub hs x y, ?_, ?_, ?_, ?_⟩
  · rw [resultOf_add hs, Option.bind_some, resultOf_sub hs, BitVec.add_sub_cancel]
  · rw [responseOf_add hs, addWithCarry_zero_zero]
  · rw [responseOf_sub hs, subWithBorrow_self]
  · rw [responseOf_sub hs, Option.map_some, subWithBorrow_zero_snd]

/-! ### The composition of two limb calls -/

/-- A value is its two limbs. -/
theorem toNat_eq_limbs (v : Word) : v.toNat = (highLimb v).toNat * 2 ^ 64 + (lowLimb v).toNat := by
  rw [highLimb_toNat, lowLimb_toNat]
  omega

/-- An exact sum determines its carry and its result. -/
theorem eq_of_exact_sum {p q : Word × Bit}
    (h : p.2.toNat * 2 ^ 128 + p.1.toNat = q.2.toNat * 2 ^ 128 + q.1.toNat) : p = q := by
  have hp := p.1.isLt
  have hq := q.1.isLt
  exact Prod.ext (BitVec.eq_of_toNat_eq (by omega)) (BitVec.eq_of_toNat_eq (by omega))

/-- An exact difference determines its borrow and its result. -/
theorem eq_of_exact_difference {x y : Word} {c : Bit} {p q : Word × Bit}
    (hp : p.2.toNat * 2 ^ 128 + x.toNat = p.1.toNat + y.toNat + c.toNat)
    (hq : x.toNat + q.2.toNat * 2 ^ 128 = q.1.toNat + y.toNat + c.toNat) : p = q := by
  have hp1 := p.1.isLt
  have hq1 := q.1.isLt
  exact Prod.ext (BitVec.eq_of_toNat_eq (by omega)) (BitVec.eq_of_toNat_eq (by omega))

/-- The low limb's carry out fed to the high limb: exact on each limb is exact on the whole. -/
theorem joined_limbs_exact {xh xl yh yl c zh zl k l : Nat} (hlow : k * 2 ^ 64 + zl = xl + yl + c)
    (hhigh : l * 2 ^ 64 + zh = xh + yh + k) :
    l * 2 ^ 128 + (zh * 2 ^ 64 + zl) = (xh * 2 ^ 64 + xl) + (yh * 2 ^ 64 + yl) + c := by
  linear_combination 2 ^ 64 * hhigh + hlow

/-- The composition of R104 for the sum. -/
theorem addByLimbs_eq (x y : Word) (c : Bit) : addByLimbs x y c = addWithCarry x y c := by
  have hjoined := joined_limbs_exact (addWithCarry_exact (lowLimb x) (lowLimb y) c)
    (addWithCarry_exact (highLimb x) (highLimb y) (addWithCarry (lowLimb x) (lowLimb y) c).2)
  rw [← toNat_eq_limbs, ← toNat_eq_limbs, ← append_toNat (m := 64)] at hjoined
  exact eq_of_exact_sum (hjoined.trans (addWithCarry_exact x y c).symm)

/-- The composition of R104 for the difference, which adds up with the subtrahend to the minuend. -/
theorem subByLimbs_eq (x y : Word) (c : Bit) : subByLimbs x y c = subWithBorrow x y c := by
  have hlow := subWithBorrow_exact (lowLimb x) (lowLimb y) c
  have hhigh := subWithBorrow_exact (highLimb x) (highLimb y) (subWithBorrow (lowLimb x) (lowLimb y) c).2
  rw [Nat.add_comm] at hlow hhigh
  have hjoined := joined_limbs_exact hlow hhigh
  rw [← toNat_eq_limbs, ← toNat_eq_limbs, ← append_toNat (m := 64)] at hjoined
  exact eq_of_exact_difference hjoined (subWithBorrow_exact x y c)

/-- Settles O18: the composed pair is the exact one. -/
theorem limbCompositionGivesWideAddAndSub : Obligations.LimbCompositionGivesWideAddAndSub := by
  unfold Obligations.LimbCompositionGivesWideAddAndSub
  intro sel s hs
  rw [addByLimbs_eq, subByLimbs_eq]
  exact ⟨exec_addc128_live hs sel, exec_subb128_live hs sel⟩

/-! ### Chains of limbs through the machine's steps -/

/-- The state in which the host issues `i` on the operands `x` and `y` (70_reset_and_hazards.md R260). -/
def State.issuing (s : State) (i : Instr) (x y : Word) : State :=
  { s with now := { s.now.offer (encode i) with a := x, b := y } }

@[simp] theorem State.faulted_issuing (s : State) (i : Instr) (x y : Word) :
    (s.issuing i x y).faulted = s.faulted := rfl

/-- Issuing changes neither `cin` nor COUT. -/
theorem carryIn_issuing (sel : CarrySel) (s : State) (i : Instr) (x y : Word) :
    carryIn sel (s.issuing i x y) = carryIn sel s := by
  cases sel <;> rfl

/-- The step of an issued command is its meaning and then the host's next move. -/
theorem step_issuing {i : Instr} (hwf : i.wellFormed = true) (s : State) (x y : Word) :
    step (s.issuing i x y) = thenAdvance (exec i (s.issuing i x y)) := by
  have hreads : (s.issuing i x y).hostReadsHeld := ⟨Bool.noConfusion, Bool.noConfusion⟩
  rw [step_of_offered hreads rfl rfl, runWord_of_decode (decode_encode hwf)]

/-- After the step of an issued command the host reads R. -/
theorem issueAndRead_of_step {i : Instr} {s t : State} {x y : Word} (h : step (s.issuing i x y) = .next t) :
    issueAndRead i x y s = t.r.map fun v => (v, t) := by
  rw [State.issuing] at h
  rw [issueAndRead, h]

theorem issueAndRead_of_respond {i : Instr} {s : State} {x y v w : Word} {k : Bit} (hwf : i.wellFormed = true)
    (h : exec i (s.issuing i x y) = .next ((s.issuing i x y).respond v w k)) :
    issueAndRead i x y s = some (v, ((s.issuing i x y).respond v w k).advance) := by
  have hstep := step_issuing hwf s x y
  rw [h, thenAdvance] at hstep
  rw [issueAndRead_of_step hstep, State.advance_r, State.respond_r, Option.map_some]

/-- Results read limb by limb under `Rel`, each carry out being the next carry in. -/
inductive LimbChain (Rel : Word → Word → Bit → Word → Bit → Prop) : Bit → List (Word × Word) → List Word → Bit → Prop
  | nil (c : Bit) : LimbChain Rel c [] [] c
  | cons {x y v : Word} {c k l : Bit} {rest : List (Word × Word)} {out : List Word}
      (head : Rel x y c v k) (tail : LimbChain Rel k rest out l) : LimbChain Rel c ((x, y) :: rest) (v :: out) l

section Chain

variable {op : CarrySel → Instr} {Rel : Word → Word → Bit → Word → Bit → Prop}

/-- One turn of the host's loop from a live state: the limb's response, and a live state whose COUT is its carry. -/
theorem issueAndRead_of_computes (hop : Computes op Rel) (hwf : ∀ sel, (op sel).wellFormed = true) {s : State}
    (hs : s.faulted = false) (sel : CarrySel) (x y : Word) :
    ∃ v t, issueAndRead (op sel) x y s = some (v, t) ∧ Rel x y (carryIn sel s) v t.cout ∧ t.faulted = false := by
  obtain ⟨v, k, hexec, hrel⟩ := hop sel (s.issuing (op sel) x y) hs
  rw [carryIn_issuing] at hrel
  exact ⟨v, _, issueAndRead_of_respond (hwf sel) hexec, by rwa [State.advance_cout, State.respond_cout], by simp⟩

/-- The loop on a first pair is one command and then the loop under CHAIN. -/
theorem chainLimbs_cons {sel : CarrySel} {x y v : Word} {rest : List (Word × Word)} {out : List Word} {s t u : State}
    (hfirst : issueAndRead (op sel) x y s = some (v, t)) (hrest : chainLimbs op .chain rest t = some (out, u)) :
    chainLimbs op sel ((x, y) :: rest) s = some (v :: out, u) := by
  rw [chainLimbs, hfirst]
  simp only [hrest, Option.map_some]

/-- Under CHAIN the loop starts from COUT. -/
theorem chainLimbs_chain (hop : Computes op Rel) (hwf : ∀ sel, (op sel).wellFormed = true)
    (limbs : List (Word × Word)) {s : State} (hs : s.faulted = false) :
    ∃ out t, chainLimbs op .chain limbs s = some (out, t) ∧ LimbChain Rel s.cout limbs out t.cout := by
  induction limbs generalizing s with
  | nil => exact ⟨[], s, rfl, .nil _⟩
  | cons pair rest ih =>
    obtain ⟨v, t, hfirst, hrel, ht⟩ := issueAndRead_of_computes hop hwf hs .chain pair.1 pair.2
    obtain ⟨out, u, hrest, hchain⟩ := ih ht
    exact ⟨v :: out, u, chainLimbs_cons hfirst hrest, .cons hrel hchain⟩

/-- A loop over at least one pair starts from the carry in of its first select. -/
theorem chainLimbs_limbChain (hop : Computes op Rel) (hwf : ∀ sel, (op sel).wellFormed = true) (sel : CarrySel)
    {limbs : List (Word × Word)} (hne : limbs ≠ []) {s : State} (hs : s.faulted = false) :
    ∃ out t, chainLimbs op sel limbs s = some (out, t) ∧ LimbChain Rel (carryIn sel s) limbs out t.cout := by
  obtain ⟨⟨x, y⟩, rest, rfl⟩ := List.exists_cons_of_ne_nil hne
  obtain ⟨v, t, hfirst, hrel, ht⟩ := issueAndRead_of_computes hop hwf hs sel x y
  obtain ⟨out, u, hrest, hchain⟩ := chainLimbs_chain hop hwf rest ht
  exact ⟨v :: out, u, chainLimbs_cons hfirst hrest, .cons hrel hchain⟩

end Chain

namespace LimbChain

variable {Rel : Word → Word → Bit → Word → Bit → Prop} {n : Nat} {c k : Bit} {limbs : List (Word × Word)}
  {out : List Word}

theorem length_eq (h : LimbChain Rel c limbs out k) : out.length = limbs.length := by
  induction h with
  | nil => rfl
  | cons _ _ ih => rw [List.length_cons, List.length_cons, ih]

/-- What every limb's result satisfies, every result read satisfies. -/
theorem forall_mem {P : Word → Prop} (hP : ∀ {x y c v k}, Rel x y c v k → P v) (h : LimbChain Rel c limbs out k) :
    ∀ v ∈ out, P v := by
  induction h with
  | nil => exact fun _ hv => absurd hv List.not_mem_nil
  | cons head _ ih => exact List.forall_mem_cons.mpr ⟨hP head, ih⟩

/-- One limb below a long sum: the lower carry out is what the upper limbs take in. -/
theorem limb_carries_into_upper {x y z c k m upperX upperY upperZ l : Nat} (hlimb : k * 2 ^ n + z = x + y + c)
    (hupper : upperZ + 2 ^ (n * m) * l = upperX + upperY + k) :
    (z + 2 ^ n * upperZ) + 2 ^ (n * (m + 1)) * l = (x + 2 ^ n * upperX) + (y + 2 ^ n * upperY) + c := by
  rw [Nat.mul_succ, pow_add]
  linear_combination 2 ^ n * hupper + hlimb

/-- A chain of limb sums is the exact long sum. -/
theorem sum_exact (h : LimbChain (SumsLimb n) c limbs out k) :
    limbsValue n (out.map BitVec.toNat) + 2 ^ (n * limbs.length) * k.toNat =
      limbsValue n (limbs.map fun p => p.1.toNat % 2 ^ n) + limbsValue n (limbs.map fun p => p.2.toNat % 2 ^ n) +
        c.toNat := by
  induction h with
  | nil => simp [limbsValue]
  | cons head _ ih => exact limb_carries_into_upper head.2 ih

/-- A chain of limb differences is the exact long difference: subtrahend and difference add up to the minuend. -/
theorem difference_exact (h : LimbChain (SubtractsLimb n) c limbs out k) :
    limbsValue n (limbs.map fun p => p.1.toNat % 2 ^ n) + 2 ^ (n * limbs.length) * k.toNat =
      limbsValue n (out.map BitVec.toNat) + limbsValue n (limbs.map fun p => p.2.toNat % 2 ^ n) + c.toNat := by
  induction h with
  | nil => simp [limbsValue]
  | cons head _ ih => exact limb_carries_into_upper ((Nat.add_comm _ _).trans head.2) ih

end LimbChain

/-- A chain of sum commands from a clear carry, through the machine's steps (40_adder.md R105). -/
theorem chainLimbs_sum {op : CarrySel → Instr} {n : Nat} (hop : Computes op (SumsLimb n))
    (hwf : ∀ sel, (op sel).wellFormed = true) {limbs : List (Word × Word)} (hne : limbs ≠ []) {s : State}
    (hs : s.faulted = false) :
    ∃ out t, chainLimbs op .zero limbs s = some (out, t) ∧ out.length = limbs.length ∧ (∀ v ∈ out, v.toNat < 2 ^ n) ∧
      limbsValue n (out.map BitVec.toNat) + 2 ^ (n * limbs.length) * t.cout.toNat =
        limbsValue n (limbs.map fun p => p.1.toNat % 2 ^ n) + limbsValue n (limbs.map fun p => p.2.toNat % 2 ^ n) := by
  obtain ⟨out, t, hrun, hchain⟩ := chainLimbs_limbChain hop hwf .zero hne hs
  exact ⟨out, t, hrun, hchain.length_eq, hchain.forall_mem And.left, hchain.sum_exact⟩

/-- A chain of difference commands from a clear borrow, through the machine's steps (40_adder.md R105). -/
theorem chainLimbs_difference {op : CarrySel → Instr} {n : Nat} (hop : Computes op (SubtractsLimb n))
    (hwf : ∀ sel, (op sel).wellFormed = true) {limbs : List (Word × Word)} (hne : limbs ≠ []) {s : State}
    (hs : s.faulted = false) :
    ∃ out t, chainLimbs op .zero limbs s = some (out, t) ∧ out.length = limbs.length ∧ (∀ v ∈ out, v.toNat < 2 ^ n) ∧
      limbsValue n (out.map BitVec.toNat) + limbsValue n (limbs.map fun p => p.2.toNat % 2 ^ n) =
        limbsValue n (limbs.map fun p => p.1.toNat % 2 ^ n) + 2 ^ (n * limbs.length) * t.cout.toNat := by
  obtain ⟨out, t, hrun, hchain⟩ := chainLimbs_limbChain hop hwf .zero hne hs
  exact ⟨out, t, hrun, hchain.length_eq, hchain.forall_mem And.left, hchain.difference_exact.symm⟩

/-- Settles O17: each step's carry out is the next one's carry in, by induction on the limbs. -/
theorem chainedLimbsGiveLongSumAndDifference : Obligations.ChainedLimbsGiveLongSumAndDifference := by
  unfold Obligations.ChainedLimbsGiveLongSumAndDifference
  intro limbs s hne hs
  refine ⟨?_, ?_, chainLimbs_sum addc64_computes (fun _ => rfl) hne hs,
    chainLimbs_difference subb64_computes (fun _ => rfl) hne hs⟩
  · obtain ⟨out, t, hrun, hlength, -, hsum⟩ := chainLimbs_sum addc128_computes (fun _ => rfl) hne hs
    simp only [word_toNat_mod] at hsum
    exact ⟨out, t, hrun, hlength, hsum⟩
  · obtain ⟨out, t, hrun, hlength, -, hdiff⟩ := chainLimbs_difference subb128_computes (fun _ => rfl) hne hs
    simp only [word_toNat_mod] at hdiff
    exact ⟨out, t, hrun, hlength, hdiff⟩

end Sys2Proof.Machine
end

section
/-! PROOFS. The multiplier family in a live state: the exact and the truncated product, their laws, and the spec's two
decompositions of them (41_multiplier.md R120 to R124). -/

namespace Sys2Proof.Machine

/-! ### What each command leaves -/

theorem exec_mulw64_live {s : State} (hs : s.faulted = false) :
    exec .mulw64 s =
      .next (s.respondOne (BitVec.ofNat 128 ((lowLimb s.now.a).toNat * (lowLimb s.now.b).toNat))) :=
  unlessFaulted_live hs _

theorem exec_mul128_live {s : State} (hs : s.faulted = false) :
    exec .mul128 s = .next (s.respondOne (BitVec.ofNat 128 (s.now.a.toNat * s.now.b.toNat))) :=
  unlessFaulted_live hs _

/-- The product of two limbs fits in 128 bits (41_multiplier.md R120). -/
theorem limb_mul_lt (x y : Limb) : x.toNat * y.toNat < 2 ^ 128 :=
  (Nat.mul_lt_mul'' x.isLt y.isLt).trans_eq (pow_add 2 64 64).symm

/-- Settles O19: the product of the limbs fits, so reducing it mod 2^128 loses nothing. -/
theorem mulw64WritesExactProduct : Obligations.Mulw64WritesExactProduct := by
  unfold Obligations.Mulw64WritesExactProduct
  refine ⟨decode_ofNat rfl rfl, fun s hs => ⟨_, exec_mulw64_live hs, ?_⟩⟩
  rw [BitVec.toNat_ofNat, Nat.mod_eq_of_lt (limb_mul_lt _ _), lowLimb_toNat, lowLimb_toNat]

/-- Settles O20: MUL128 responds with the product mod 2^128, and always with COUT 0. -/
theorem mul128WritesTruncatedProduct : Obligations.Mul128WritesTruncatedProduct := by
  unfold Obligations.Mul128WritesTruncatedProduct
  exact ⟨decode_ofNat rfl rfl, fun _ hs => exec_mul128_live hs⟩

/-! ### The laws of the family -/

/-- MUL128 leaves the product of the ring of integers mod 2^128. -/
theorem resultOf_mul {s : State} (hs : s.faulted = false) (x y : Word) :
    resultOf .mul128 (s.withOperands x y) = some (x * y) := by
  refine (resultOf_live (s := s.withOperands x y) hs rfl).trans (congrArg some (BitVec.eq_of_toNat_eq ?_))
  exact (BitVec.toNat_mul x y).symm

/-- MULW64 leaves the ring's product of the zero-extended low limbs. -/
theorem resultOf_mulw64 {s : State} (hs : s.faulted = false) (x y : Word) :
    resultOf .mulw64 (s.withOperands x y) = some (zext (lowLimb x) * zext (lowLimb y)) := by
  refine (resultOf_live (s := s.withOperands x y) hs rfl).trans (congrArg some (BitVec.eq_of_toNat_eq ?_))
  rw [BitVec.toNat_mul, zext_toNat (by decide), zext_toNat (by decide)]
  rfl

/-- Settles O21: MUL128 and ADD leave the ring's product and sum, so each law is the ring's own. -/
theorem multiplyLaws : Obligations.MultiplyLaws := by
  unfold Obligations.MultiplyLaws
  intro s x y z hs
  refine ⟨?_, ?_, ?_, ?_, ?_, ?_, ?_⟩
  · rw [resultOf_mul hs, BitVec.mul_one]
  · rw [resultOf_mul hs, BitVec.mul_zero]
  · rw [resultOf_mul hs, Option.isSome_some]
  · rw [resultOf_mul hs, resultOf_mul hs, BitVec.mul_comm]
  · simp only [resultOf_mul hs, Option.bind_some, BitVec.mul_assoc]
  · simp only [resultOf_mul hs, resultOf_add hs, Option.bind_some, BitVec.mul_add]
  · rw [resultOf_mul hs, resultOf_mulw64 hs]

/-! ### The decompositions -/

/-- A product by the four partial products of its factors' digits in base `m`: the idea of both R121, at 2^32, and R123,
at 2^64. -/
theorem mul_eq_partial_products (m x y : Nat) :
    x * y = (x / m) * (y / m) * m ^ 2 + ((x / m) * (y % m) + (x % m) * (y / m)) * m + (x % m) * (y % m) :=
  calc x * y = (m * (x / m) + x % m) * (m * (y / m) + y % m) := by rw [Nat.div_add_mod, Nat.div_add_mod]
    _ = _ := by ring

/-- The carries of R121 combine the partial products without loss: `mid` collects what stands at 2^32 and above in `p00`
and what of the cross products stays below 2^64; the rest of it and of them goes to the high half. -/
theorem partial_products_combine {p00 p01 p10 p11 mid : Nat}
    (hmid : mid = p00 / 2 ^ 32 + p10 % 2 ^ 32 + p01 % 2 ^ 32) :
    (p11 + p10 / 2 ^ 32 + p01 / 2 ^ 32 + mid / 2 ^ 32) * 2 ^ 64 + (mid * 2 ^ 32 + p00 % 2 ^ 32) % 2 ^ 64 =
      p11 * (2 ^ 32) ^ 2 + (p10 + p01) * 2 ^ 32 + p00 := by
  omega

/-- The high half, too, fits in its 64 bits, since the whole product fits in 128. -/
theorem schoolbook_toNat (x y : Limb) : (schoolbook x y).toNat = x.toNat * y.toNat := by
  have hfits := limb_mul_lt x y
  rw [mul_eq_partial_products (2 ^ 32), ← partial_products_combine rfl] at hfits ⊢
  refine (append_toNat _ _).trans ?_
  rw [BitVec.toNat_ofNat, BitVec.toNat_ofNat, Nat.mod_eq_of_lt (a := _ + _) (by omega)]

theorem schoolbook_eq (x y : Limb) : schoolbook x y = BitVec.ofNat 128 (x.toNat * y.toNat) := by
  rw [← schoolbook_toNat, BitVec.ofNat_toNat, BitVec.setWidth_eq]

/-- Settles O22: the combined partial products are the exact product of the limbs. -/
theorem schoolbookGivesWideningProduct : Obligations.SchoolbookGivesWideningProduct := by
  unfold Obligations.SchoolbookGivesWideningProduct
  intro s hs
  rw [schoolbook_eq]
  exact exec_mulw64_live hs

/-- Mod 2^128 the product of the high limbs, and what of the cross products reaches 2^64, are discarded. -/
theorem partial_products_truncate (hh cross ll : Nat) :
    (ll + cross % 2 ^ 64 * 2 ^ 64) % 2 ^ 128 = (hh * (2 ^ 64) ^ 2 + cross * 2 ^ 64 + ll) % 2 ^ 128 := by
  omega

theorem multiplyByLimbs_eq (a b : Word) : multiplyByLimbs a b = BitVec.ofNat 128 (a.toNat * b.toNat) := by
  apply BitVec.eq_of_toNat_eq
  rw [multiplyByLimbs, BitVec.toNat_ofNat, BitVec.toNat_ofNat, BitVec.toNat_ofNat, highLimb_toNat, highLimb_toNat,
    lowLimb_toNat, lowLimb_toNat, mul_eq_partial_products (2 ^ 64) a.toNat]
  exact partial_products_truncate _ _ _

/-- Settles O23: the terms that the decomposition leaves out are multiples of 2^128. -/
theorem crossTermsGiveTruncatedProduct : Obligations.CrossTermsGiveTruncatedProduct := by
  unfold Obligations.CrossTermsGiveTruncatedProduct
  intro s hs
  rw [multiplyByLimbs_eq]
  exact exec_mul128_live hs

end Sys2Proof.Machine
end

section
/-! PROOFS. The divider family in a live state: the quotient and remainder, the three endings at divisor zero, and the
spec's two division algorithms (42_divider.md R140 to R145). -/

namespace Sys2Proof.Machine

/-! ### What each command leaves -/

/-- The three divide commands differ only in their code at divisor zero (42_divider.md R141 to R143). -/
theorem exec_divide_eq {i : Instr} (hi : i ∈ [Instr.divmod, .trydivmod, .udivmod]) (s : State) :
    ∃ code, exec i s = unlessFaulted s (divideOr code s) := by
  simp only [List.mem_cons, List.not_mem_nil, or_false] at hi
  obtain rfl | rfl | rfl := hi
  · exact ⟨.divDomain, rfl⟩
  · exact ⟨.divNoValue, rfl⟩
  · exact ⟨.ubDivZero, rfl⟩

theorem exec_divide_of_ne_zero {i : Instr} (hi : i ∈ [Instr.divmod, .trydivmod, .udivmod]) {s : State}
    (hs : s.faulted = false) (hb : s.now.b.toNat ≠ 0) :
    exec i s = .next (s.respond (udivmod s.now.a s.now.b).1 (udivmod s.now.a s.now.b).2 0#1) := by
  obtain ⟨code, hexec⟩ := exec_divide_eq hi s
  rw [hexec, unlessFaulted_live hs, divideOr_pos hb]

theorem exec_divide_of_zero {i : Instr} (code : StatusCode) {s : State}
    (hexec : exec i s = unlessFaulted s (divideOr code s)) (hs : s.faulted = false) (hb : s.now.b.toNat = 0) :
    exec i s = .next (s.endWith code) := by
  rw [hexec, unlessFaulted_live hs, divideOr_zero hb]

/-- Settles O24: DIVMOD divides, and its code at divisor zero is DIV_DOMAIN. -/
theorem divmodDividesOrEndsInDivDomain : Obligations.DivmodDividesOrEndsInDivDomain := by
  unfold Obligations.DivmodDividesOrEndsInDivDomain
  refine ⟨decode_ofNat rfl rfl, fun s hs => ⟨fun hb => ?_, fun hb => ?_⟩⟩
  · exact exec_divide_of_ne_zero (by decide) hs hb
  · exact exec_divide_of_zero .divDomain rfl hs hb

/-- Settles O25: TRYDIVMOD divides, and its code at divisor zero is DIV_NOVALUE. -/
theorem trydivmodDividesOrEndsInDivNoValue : Obligations.TrydivmodDividesOrEndsInDivNoValue := by
  unfold Obligations.TrydivmodDividesOrEndsInDivNoValue
  refine ⟨decode_ofNat rfl rfl, fun s hs => ⟨fun hb => ?_, fun hb => ?_⟩⟩
  · exact exec_divide_of_ne_zero (by decide) hs hb
  · exact exec_divide_of_zero .divNoValue rfl hs hb

/-- Settles O26: UDIVMOD divides, and its code at divisor zero, UB_DIVZERO, leaves the CORE faulted. -/
theorem udivmodDividesOrFaults : Obligations.UdivmodDividesOrFaults := by
  unfold Obligations.UdivmodDividesOrFaults
  refine ⟨decode_ofNat rfl rfl, fun s hs => ⟨fun hb => ?_, fun hb => ?_⟩⟩
  · exact exec_divide_of_ne_zero (by decide) hs hb
  · exact ⟨_, exec_divide_of_zero .ubDivZero rfl hs hb, s.faulted_endWith .ubDivZero, s.endWith_eq .ubDivZero⟩

/-- Settles O27: quotient and remainder fit in 128 bits, so the registers hold them exactly. -/
theorem quotientAndRemainderAreExact : Obligations.QuotientAndRemainderAreExact := by
  unfold Obligations.QuotientAndRemainderAreExact
  intro s i hs hi hb
  refine ⟨_, _, exec_divide_of_ne_zero hi hs hb, ?_, ?_, udivmod_fst_toNat _ _, udivmod_snd_toNat _ _⟩
  · rw [udivmod_fst_toNat, udivmod_snd_toNat, Nat.div_add_mod']
  · rw [udivmod_snd_toNat]
    exact Nat.mod_lt _ (Nat.pos_of_ne_zero hb)

/-! ### Restoring division -/

/-- A round at bit `i` brings the bit down into the partial remainder and takes the divisor out of it at most once. With
the partial remainder weighted by `2 ^ i`, nothing is lost (42_divider.md R144). -/
theorem restoringRound_exact (a : Word) (d i : Nat) (qr : Nat × Nat) :
    (restoringRound a d i qr).1 * d + (restoringRound a d i qr).2 * 2 ^ i =
      qr.1 * d + (2 * qr.2 + (a.getLsbD i).toNat) * 2 ^ i := by
  unfold restoringRound
  dsimp only
  split
  next hle =>
    rw [Nat.add_mul, Nat.sub_mul, Nat.mul_comm (2 ^ i) d]
    have := Nat.mul_le_mul_right (2 ^ i) hle
    omega
  next => rfl

/-- Below twice the divisor, one subtraction restores the bound on the partial remainder. -/
theorem restoringRound_snd_lt (a : Word) {d : Nat} (i : Nat) {qr : Nat × Nat} (h : qr.2 < d) :
    (restoringRound a d i qr).2 < d := by
  have hbit := Bool.toNat_le (a.getLsbD i)
  unfold restoringRound
  dsimp only
  split
  next => dsimp only; omega
  next hlt => exact Nat.not_le.mp hlt

/-- The rounds for the low `k` bits divide what those bits and the partial remainder above them make up. -/
theorem restoringRounds_exact (a : Word) (d k : Nat) (qr : Nat × Nat) :
    (restoringRounds a d k qr).1 * d + (restoringRounds a d k qr).2 =
      qr.1 * d + qr.2 * 2 ^ k + a.toNat % 2 ^ k := by
  induction k generalizing qr with
  | zero => simp [restoringRounds, Nat.mod_one]
  | succ i ih =>
    have hbits : a.toNat % 2 ^ (i + 1) = a.toNat % 2 ^ i + 2 ^ i * (a.getLsbD i).toNat := by
      rw [Nat.mod_pow_succ, ← Nat.toNat_testBit, BitVec.testBit_toNat]
    rw [restoringRounds, ih, restoringRound_exact, hbits]
    ring

theorem restoringRounds_snd_lt (a : Word) {d : Nat} (k : Nat) {qr : Nat × Nat} (h : qr.2 < d) :
    (restoringRounds a d k qr).2 < d := by
  induction k generalizing qr with
  | zero => exact h
  | succ i ih => exact ih (restoringRound_snd_lt a i h)

/-- From a clear start, the 128 rounds end in the one quotient and remainder of R140. -/
theorem restoringDivide_eq {a b : Word} (hb : b.toNat ≠ 0) : restoringDivide a b = udivmod a b := by
  have hpos : 0 < b.toNat := Nat.pos_of_ne_zero hb
  have hexact := restoringRounds_exact a b.toNat 128 (0, 0)
  have hlt := restoringRounds_snd_lt a 128 (qr := (0, 0)) hpos
  rw [word_toNat_mod, Nat.zero_mul, Nat.zero_mul, Nat.zero_add, Nat.add_comm, Nat.mul_comm] at hexact
  obtain ⟨hquot, hrem⟩ := (Nat.div_mod_unique hpos).mpr ⟨hexact, hlt⟩
  rw [restoringDivide, udivmod, hquot, hrem]

/-- Settles O28: the rounds keep the dividend, and the partial remainder below the divisor. -/
theorem restoringDivisionGivesQuotientAndRemainder : Obligations.RestoringDivisionGivesQuotientAndRemainder := by
  unfold Obligations.RestoringDivisionGivesQuotientAndRemainder
  intro s i hs hi hb
  rw [restoringDivide_eq hb]
  exact exec_divide_of_ne_zero hi hs hb

/-! ### Division by a limb -/

/-- Long division in base `m`: the remainder of the upper digits stands above the next digit. -/
theorem two_digits_eq_mul_add (m h l b : Nat) : h * m + l = b * (h / b * m) + (h % b * m + l) :=
  calc h * m + l = (b * (h / b) + h % b) * m + l := by rw [Nat.div_add_mod]
    _ = _ := by ring

theorem div_two_digits (m h l : Nat) {b : Nat} (hb : 0 < b) :
    (h * m + l) / b = h / b * m + (h % b * m + l) / b := by
  rw [two_digits_eq_mul_add m h l b, Nat.mul_add_div hb]

theorem mod_two_digits (m h l b : Nat) : (h * m + l) % b = (h % b * m + l) % b := by
  rw [two_digits_eq_mul_add m h l b, Nat.mul_add_mod]

/-- The second digit of the quotient is one digit: what it is taken from is below `b * m`. -/
theorem second_digit_lt {m l b : Nat} (h : Nat) (hb : 0 < b) (hl : l < m) : (h % b * m + l) / b < m := by
  refine Nat.div_lt_of_lt_mul ?_
  calc h % b * m + l < (h % b + 1) * m := by rw [Nat.succ_mul]; omega
    _ ≤ b * m := Nat.mul_le_mul_right m (Nat.mod_lt h hb)

/-- Each step's quotient, and the remainder, fits in a limb (42_divider.md R145). -/
theorem divideByLimb_eq {a b : Word} (hb : b.toNat ≠ 0) (hlimb : b.toNat < 2 ^ 64) :
    divideByLimb a b = udivmod a b := by
  have hpos : 0 < b.toNat := Nat.pos_of_ne_zero hb
  have hhigh : (highLimb a).toNat / b.toNat < 2 ^ 64 := (Nat.div_le_self _ _).trans_lt (highLimb a).isLt
  have hlow := second_digit_lt (highLimb a).toNat hpos (lowLimb a).isLt
  have hrem := (Nat.mod_lt ((highLimb a).toNat % b.toNat * 2 ^ 64 + (lowLimb a).toNat) hpos).trans hlimb
  refine Prod.ext (BitVec.eq_of_toNat_eq ?_) (BitVec.eq_of_toNat_eq ?_)
  · rw [udivmod_fst_toNat, toNat_eq_limbs a, div_two_digits _ _ _ hpos]
    refine (append_toNat _ _).trans ?_
    rw [BitVec.toNat_ofNat, BitVec.toNat_ofNat, Nat.mod_eq_of_lt hhigh, Nat.mod_eq_of_lt hlow]
  · rw [udivmod_snd_toNat, toNat_eq_limbs a, mod_two_digits]
    refine (zext_toNat (by decide) _).trans ?_
    rw [BitVec.toNat_ofNat, Nat.mod_eq_of_lt hrem]

/-- Settles O29: the two steps are long division in base 2^64. -/
theorem limbDivisionGivesQuotientAndRemainder : Obligations.LimbDivisionGivesQuotientAndRemainder := by
  unfold Obligations.LimbDivisionGivesQuotientAndRemainder
  intro s i hs hi hb hlimb
  rw [divideByLimb_eq hb hlimb]
  exact exec_divide_of_ne_zero hi hs hb

end Sys2Proof.Machine
end

section
/-! PROOFS. The shifter family in a live state: the shifted values, the fault for an amount out of range, and the laws
of the family (43_shifter.md R160 to R164). -/

namespace Sys2Proof.Machine

/-! ### What each command leaves -/

theorem shiftRight_eq_div (v : Word) (n : Nat) : shiftRight v n = BitVec.ofNat 128 (v.toNat / 2 ^ n) := by
  rw [← shiftRight_toNat, BitVec.ofNat_toNat, BitVec.setWidth_eq]

theorem exec_shift_of_inRange {i : Instr} {shift : Word → Nat → Word} {s : State}
    (hexec : exec i s = unlessFaulted s (shiftByPort shift s)) (hs : s.faulted = false) (hb : s.now.b.toNat < 128) :
    exec i s = .next (s.respondOne (shift s.now.a s.now.b.toNat)) := by
  rw [hexec, unlessFaulted_live hs, shiftByPort_inRange hb, State.respondOne]

/-- An amount of 128 or more leaves the CORE faulted. -/
theorem exec_shift_of_outOfRange {i : Instr} {shift : Word → Nat → Word} {s : State}
    (hexec : exec i s = unlessFaulted s (shiftByPort shift s)) (hs : s.faulted = false) (hb : 128 ≤ s.now.b.toNat) :
    ∃ t, exec i s = .next t ∧ t.faulted = true ∧
      t = { s with r := none, r2 := none, cout := 0#1, status := 0x9#4 } := by
  refine ⟨s.endWith .ubShift, ?_, s.faulted_endWith .ubShift, s.endWith_eq .ubShift⟩
  rw [hexec, unlessFaulted_live hs, shiftByPort_outOfRange hb]

/-- Settles O30: an amount in range multiplies by its power of two, any other ends in UB_SHIFT. -/
theorem shlShiftsOrFaults : Obligations.ShlShiftsOrFaults := by
  unfold Obligations.ShlShiftsOrFaults
  refine ⟨decode_ofNat rfl rfl, fun s hs => ⟨fun hb => ?_, exec_shift_of_outOfRange rfl hs⟩⟩
  rw [← shiftLeft_eq_mul]
  exact exec_shift_of_inRange rfl hs hb

/-- Settles O31: an amount in range divides by its power of two, any other ends in UB_SHIFT. -/
theorem shrShiftsOrFaults : Obligations.ShrShiftsOrFaults := by
  unfold Obligations.ShrShiftsOrFaults
  refine ⟨decode_ofNat rfl rfl, fun s hs => ⟨fun hb => ?_, exec_shift_of_outOfRange rfl hs⟩⟩
  rw [← shiftRight_eq_div]
  exact exec_shift_of_inRange rfl hs hb

/-- A number that fits in `n` bits is the value of its vector. -/
theorem toNat_ofNat_of_lt {n k : Nat} (h : k < 2 ^ n) : (BitVec.ofNat n k).toNat = k :=
  Nat.mod_eq_of_lt h

/-- A word of format S is its opcode beside its SHAMT (30_encoding.md R64): the two do not overlap, so joining them is
adding them. -/
theorem opc_or_shamt {opc n : Nat} (hopc : opc < 256) (hn : n ≤ 127) :
    BitVec.ofNat 32 opc ||| (BitVec.ofNat 32 n <<< 8) = BitVec.ofNat 32 (opc + 256 * n) := by
  apply BitVec.eq_of_toNat_eq
  have hshamt : (BitVec.ofNat 32 n <<< 8).toNat = n <<< 8 := by
    rw [BitVec.toNat_shiftLeft, toNat_ofNat_of_lt (by omega), Nat.shiftLeft_eq, Nat.mod_eq_of_lt (by omega)]
  rw [BitVec.toNat_or, hshamt, toNat_ofNat_of_lt (by omega), toNat_ofNat_of_lt (by omega), Nat.or_comm,
    ← Nat.shiftLeft_add_eq_or_of_lt hopc, Nat.shiftLeft_eq, Nat.add_comm, Nat.mul_comm]

/-- Settles O32: the word is SHLI's row of the opcode map, and a left shift multiplies by a power of two. -/
theorem shliShiftsByShamt : Obligations.ShliShiftsByShamt := by
  unfold Obligations.ShliShiftsByShamt
  refine ⟨fun n hn => ?_, fun n s _ hs => ?_⟩
  · rw [opc_or_shamt (by decide) hn]
    exact decode_shamt_row hn rfl rfl rfl
  · rw [← shiftLeft_eq_mul]
    exact unlessFaulted_live hs _

/-- Settles O33: the word is SHRI's row of the opcode map, and a right shift divides by a power of two. -/
theorem shriShiftsByShamt : Obligations.ShriShiftsByShamt := by
  unfold Obligations.ShriShiftsByShamt
  refine ⟨fun n hn => ?_, fun n s _ hs => ?_⟩
  · rw [opc_or_shamt (by decide) hn]
    exact decode_shamt_row hn rfl rfl rfl
  · rw [← shiftRight_eq_div]
    exact unlessFaulted_live hs _

/-! ### The results as operations on 128-bit vectors -/

theorem resultOf_shli {s : State} (hs : s.faulted = false) (n : Nat) (x y : Word) :
    resultOf (.shli n) (s.withOperands x y) = some (x <<< n) :=
  resultOf_live (e := (s.withOperands x y).respondOne (x <<< n)) hs rfl

theorem resultOf_shri {s : State} (hs : s.faulted = false) (n : Nat) (x y : Word) :
    resultOf (.shri n) (s.withOperands x y) = some (x >>> n) :=
  resultOf_live (e := (s.withOperands x y).respondOne (x >>> n)) hs rfl

theorem resultOf_shl {s : State} (hs : s.faulted = false) (x : Word) {y : Word} (hy : y.toNat < 128) :
    resultOf .shl (s.withOperands x y) = some (x <<< y.toNat) :=
  (resultOf_live (s := s.withOperands x y) hs rfl).trans (congrArg State.r (shiftByPort_inRange hy))

theorem resultOf_shr {s : State} (hs : s.faulted = false) (x : Word) {y : Word} (hy : y.toNat < 128) :
    resultOf .shr (s.withOperands x y) = some (x >>> y.toNat) :=
  (resultOf_live (s := s.withOperands x y) hs rfl).trans (congrArg State.r (shiftByPort_inRange hy))

theorem resultOf_divmod {s : State} (hs : s.faulted = false) (x : Word) {y : Word} (hy : y ≠ 0#128) :
    resultOf .divmod (s.withOperands x y) = some (x / y) :=
  (resultOf_live (s := s.withOperands x y) hs rfl).trans (congrArg State.r (divideOr_of_ne_zero hy))

/-! ### The laws of the family -/

theorem word_two_pow_toNat {n : Nat} (hn : n ≤ 127) : (BitVec.ofNat 128 (2 ^ n)).toNat = 2 ^ n :=
  toNat_ofNat_of_lt (Nat.pow_lt_pow_right (by decide) (by omega))

theorem word_two_pow_ne_zero {n : Nat} (hn : n ≤ 127) : BitVec.ofNat 128 (2 ^ n) ≠ 0#128 := by
  intro hzero
  have hpow := word_two_pow_toNat hn
  rw [hzero] at hpow
  exact (Nat.two_pow_pos n).ne hpow

/-- Left and then right by `n`, the high `n` bits are lost and the low `128 - n` come back. -/
theorem word_shiftLeft_ushiftRight (x : Word) {n : Nat} (hn : n ≤ 127) :
    x <<< n >>> n = x &&& BitVec.ofNat 128 (2 ^ (128 - n) - 1) := by
  have hsplit : 2 ^ 128 = 2 ^ (128 - n) * 2 ^ n := by rw [← pow_add, Nat.sub_add_cancel (by omega)]
  have hmask : 2 ^ (128 - n) - 1 < 2 ^ 128 :=
    (Nat.sub_one_lt (Nat.two_pow_pos _).ne').trans_le (Nat.pow_le_pow_right (by decide) (Nat.sub_le _ _))
  apply BitVec.eq_of_toNat_eq
  calc (x <<< n >>> n).toNat
    _ = x.toNat * 2 ^ n % 2 ^ 128 / 2 ^ n := by
      rw [BitVec.toNat_ushiftRight, Nat.shiftRight_eq_div_pow, BitVec.toNat_shiftLeft, Nat.shiftLeft_eq]
    _ = x.toNat % 2 ^ (128 - n) := by
      rw [hsplit, Nat.mul_mod_mul_right, Nat.mul_div_cancel _ (Nat.two_pow_pos n)]
    _ = (x &&& BitVec.ofNat 128 (2 ^ (128 - n) - 1)).toNat := by
      rw [BitVec.toNat_and, toNat_ofNat_of_lt hmask, Nat.and_two_pow_sub_one_eq_mod]

theorem word_shiftLeft_eq_mul (x : Word) (n : Nat) : x <<< n = x * BitVec.ofNat 128 (2 ^ n) := by
  refine (shiftLeft_eq_mul x n).trans ?_
  rw [BitVec.ofNat_mul, BitVec.ofNat_toNat, BitVec.setWidth_eq]

theorem word_ushiftRight_eq_udiv (x : Word) {n : Nat} (hn : n ≤ 127) : x >>> n = x / BitVec.ofNat 128 (2 ^ n) := by
  apply BitVec.eq_of_toNat_eq
  rw [BitVec.toNat_udiv, word_two_pow_toNat hn]
  exact shiftRight_toNat x n

/-- Settles O34: each command leaves an operation on 128-bit vectors, and each law is one of these operations'. -/
theorem shiftLaws : Obligations.ShiftLaws := by
  unfold Obligations.ShiftLaws
  intro s x n m hs hn _
  have hamount : (BitVec.ofNat 128 n).toNat = n := toNat_ofNat_of_lt (by omega)
  refine ⟨?_, ?_, ?_, fun _ => ?_, ?_, ?_, ?_, ?_⟩
  · rw [resultOf_shli hs, BitVec.shiftLeft_zero]
  · rw [resultOf_shri hs, BitVec.ushiftRight_zero]
  · rw [resultOf_shli hs, Option.bind_some, resultOf_shri hs, word_shiftLeft_ushiftRight x hn]
  · rw [resultOf_shli hs, Option.bind_some, resultOf_shli hs, resultOf_shli hs, BitVec.shiftLeft_add]
  · rw [resultOf_shli hs, resultOf_mul hs, word_shiftLeft_eq_mul]
  · rw [resultOf_shri hs, resultOf_divmod hs x (word_two_pow_ne_zero hn), word_ushiftRight_eq_udiv x hn]
  · rw [resultOf_shli hs, resultOf_shl hs x (by omega), hamount]
  · rw [resultOf_shri hs, resultOf_shr hs x (by omega), hamount]

end Sys2Proof.Machine
end

section
/-! PROOFS. The converter family in a live state: limbs, byte images, the extensions, and what their round trips give
back (44_converter.md R180 to R195). -/

namespace Sys2Proof.Machine

/-! ### Lanes -/

/-- The digit of weight `b ^ i`, cut out of a number written in base `b`. -/
theorem ofDigits_div_pow_mod {b : Nat} {digits : List Nat} (hdigits : ∀ d ∈ digits, d < b) {i : Nat}
    (hi : i < digits.length) : Nat.ofDigits b digits / b ^ i % b = digits[i] := by
  have hdigit : digits[i] < b := hdigits _ (List.getElem_mem hi)
  rw [Nat.ofDigits_div_pow_eq_ofDigits_drop i (Nat.zero_lt_of_lt hdigit) _ hdigits, List.drop_eq_getElem_cons hi,
    Nat.ofDigits_mod_eq_head!, List.head!_cons, Nat.mod_eq_of_lt hdigit]

/-- `bswap128` in base 256: the digit at place `i` is lane `15 - i`. -/
theorem bswap128_toNat_eq_ofDigits (v : Word) :
    (bswap128 v).toNat = Nat.ofDigits 256 ((List.range 16).map fun i => (lane v (15 - i)).toNat) := by
  rw [bswap128_toNat]
  simp only [List.range, List.range.loop, List.map_cons, List.map_nil, Nat.ofDigits_cons, Nat.ofDigits_nil,
    Nat.reduceSub]
  omega

theorem lane_bswap128 (v : Word) {i : Nat} (hi : i < 16) : lane (bswap128 v) i = lane v (15 - i) := by
  have hdigits : ∀ d ∈ (List.range 16).map fun i => (lane v (15 - i)).toNat, d < 256 :=
    List.forall_mem_map.mpr fun j _ => (lane v (15 - j)).isLt
  apply BitVec.eq_of_toNat_eq
  rw [lane_toNat, pow_mul, bswap128_toNat_eq_ofDigits]
  refine (ofDigits_div_pow_mod hdigits (by simpa using hi)).trans ?_
  rw [List.getElem_map, List.getElem_range]

/-- The digits of a number in base `b`, weighted and summed, are the number itself as far as they reach. -/
theorem sum_digits_eq_mod (b x n : Nat) :
    ((List.range n).map fun i => x / b ^ i % b * b ^ i).sum = x % b ^ n := by
  induction n with
  | zero => simp [Nat.mod_one]
  | succ n ih =>
    rw [List.range_succ, List.map_append, List.sum_append, ih, Nat.mod_pow_succ]
    simp [Nat.mul_comm]

theorem toNat_eq_littleEndianSum (v : Word) : v.toNat = Spec.littleEndianSum v := by
  have hweight (i : Nat) : 2 ^ (8 * i) = 256 ^ i := pow_mul 2 8 i
  simp only [Spec.littleEndianSum, hweight]
  rw [sum_digits_eq_mod]
  exact (Nat.mod_eq_of_lt v.isLt).symm

/-- A value is determined by its sixteen lanes. -/
theorem eq_of_lane_eq {v w : Word} (h : ∀ i < 16, lane v i = lane w i) : v = w := by
  apply BitVec.eq_of_toNat_eq
  rw [toNat_eq_littleEndianSum, toNat_eq_littleEndianSum, Spec.littleEndianSum, Spec.littleEndianSum]
  simp only [← lane_toNat]
  refine congrArg List.sum (List.map_congr_left fun i hi => ?_)
  rw [h i (List.mem_range.mp hi)]

theorem bswap128_bswap128 (v : Word) : bswap128 (bswap128 v) = v := by
  refine eq_of_lane_eq fun i hi => ?_
  rw [lane_bswap128 _ hi, lane_bswap128 v (by omega), Nat.sub_sub_self (by omega)]

/-- Settles O40: the lanes of a value are its digits in base 256, and reversing their places twice puts each back. -/
theorem bswap128ReversesLanes : Obligations.Bswap128ReversesLanes := by
  unfold Obligations.Bswap128ReversesLanes
  exact fun v => ⟨fun i hi => ⟨lane_toNat v i, lane_bswap128 v hi⟩, bswap128_bswap128 v⟩

/-! ### PACK and SPLIT -/

theorem exec_pack_live {s : State} (hs : s.faulted = false) :
    exec .pack s = .next (s.respondOne (lowLimb s.now.a ++ lowLimb s.now.b)) :=
  unlessFaulted_live hs _

theorem exec_split_live {s : State} (hs : s.faulted = false) :
    exec .split s = .next (s.respond (zext (highLimb s.now.a)) (zext (lowLimb s.now.a)) 0#1) :=
  unlessFaulted_live hs _

/-- Settles O35: joining limbs weighs the first by 2^64. -/
theorem packJoinsLimbs : Obligations.PackJoinsLimbs := by
  unfold Obligations.PackJoinsLimbs
  refine ⟨decode_ofNat rfl rfl, fun s hs => ⟨_, exec_pack_live hs, ?_⟩⟩
  rw [← lowLimb_toNat, ← lowLimb_toNat]
  exact append_toNat (lowLimb s.now.a) (lowLimb s.now.b)

theorem zext_eq_ofNat {n : Nat} (v : BitVec n) : zext v = BitVec.ofNat 128 v.toNat :=
  (BitVec.ofNat_toNat 128 v).symm

/-- Settles O36: the limbs are the quotient and the remainder of the value by 2^64. -/
theorem splitTakesLimbsApart : Obligations.SplitTakesLimbsApart := by
  unfold Obligations.SplitTakesLimbsApart
  refine ⟨decode_ofNat rfl rfl, fun s hs => ?_⟩
  rw [← highLimb_toNat, ← lowLimb_toNat, ← zext_eq_ofNat, ← zext_eq_ofNat]
  exact exec_split_live hs

/-! ### Byte images -/

/-- Settles O37: a value is the weighted sum of its own bytes. -/
theorem frombLeReadsLittleEndianImage : Obligations.FrombLeReadsLittleEndianImage := by
  unfold Obligations.FrombLeReadsLittleEndianImage
  exact ⟨decode_ofNat rfl rfl, fun s hs => ⟨unlessFaulted_live hs _, toNat_eq_littleEndianSum s.now.a⟩⟩

/-- Settles O38: the reversed lanes weigh the bytes the other way round. -/
theorem frombBeReadsBigEndianImage : Obligations.FrombBeReadsBigEndianImage := by
  unfold Obligations.FrombBeReadsBigEndianImage
  exact ⟨decode_ofNat rfl rfl, fun s hs => ⟨unlessFaulted_live hs _, bswap128_toNat_eq_bigEndianSum s.now.a⟩⟩

theorem ofNat_littleEndianSum (v : Word) : BitVec.ofNat 128 (Spec.littleEndianSum v) = v := by
  rw [← toNat_eq_littleEndianSum, BitVec.ofNat_toNat, BitVec.setWidth_eq]

/-- Settles O39: each byte order has its own sum over the bytes of the image. -/
theorem frombNatDispatchesOnByteOrder : Obligations.FrombNatDispatchesOnByteOrder := by
  unfold Obligations.FrombNatDispatchesOnByteOrder
  refine ⟨decode_ofNat rfl rfl, fun s hs => ?_⟩
  rw [ofNat_littleEndianSum, ← fromNative_eq]
  exact unlessFaulted_live hs _

/-! ### Zero and sign extension -/

/-- The zero extensions with their widths (44_converter.md R187 to R190). -/
def extzRows : List (Instr × Nat) := [(.extz8, 8), (.extz16, 16), (.extz32, 32), (.extz64, 64)]

/-- The sign extensions with their widths (44_converter.md R191 to R194). -/
def extsRows : List (Instr × Nat) := [(.exts8, 8), (.exts16, 16), (.exts32, 32), (.exts64, 64)]

theorem extzRows_width_le : ∀ p ∈ extzRows, p.2 ≤ 128 := by decide

theorem extsRows_width_le : ∀ p ∈ extsRows, p.2 ≤ 128 := by decide

theorem extsRows_width_pos : ∀ p ∈ extsRows, 0 < p.2 := by decide

/-- The four zero extensions differ only in their width. -/
theorem exec_extz_eq {p : Instr × Nat} (hp : p ∈ extzRows) (s : State) :
    exec p.1 s = unlessFaulted s (s.respondOne (zext (low p.2 s.now.a))) := by
  simp only [extzRows, List.mem_cons, List.not_mem_nil, or_false] at hp
  obtain rfl | rfl | rfl | rfl := hp <;> rfl

/-- The four sign extensions differ only in their width. -/
theorem exec_exts_eq {p : Instr × Nat} (hp : p ∈ extsRows) (s : State) :
    exec p.1 s = unlessFaulted s (s.respondOne (sext (low p.2 s.now.a))) := by
  simp only [extsRows, List.mem_cons, List.not_mem_nil, or_false] at hp
  obtain rfl | rfl | rfl | rfl := hp <;> rfl

/-- Settles O41: the low bits are the remainder by their power of two. -/
theorem extzZeroExtendsLowBits : Obligations.ExtzZeroExtendsLowBits := by
  unfold Obligations.ExtzZeroExtendsLowBits
  refine ⟨⟨decode_ofNat rfl rfl, decode_ofNat rfl rfl, decode_ofNat rfl rfl, decode_ofNat rfl rfl⟩,
    fun s hs p hp => ?_⟩
  rw [exec_extz_eq hp, unlessFaulted_live hs, zext_low_eq (extzRows_width_le p hp),
    State.respondOne_eq]

/-- The two's-complement value of the low `n` bits, whose sign bit has the weight `2 ^ (n - 1)`. -/
theorem sext_low_eq {n : Nat} (hn : 0 < n) (v : Word) : sext (low n v) = BitVec.ofInt 128
    (if v.toNat % 2 ^ n < 2 ^ (n - 1) then ((v.toNat % 2 ^ n : Nat) : Int)
      else ((v.toNat % 2 ^ n : Nat) : Int) - 2 ^ n) := by
  have hsign : 2 * (v.toNat % 2 ^ n) < 2 ^ n ↔ v.toNat % 2 ^ n < 2 ^ (n - 1) := by
    rw [← Nat.two_pow_pred_mul_two hn]
    omega
  rw [sext, BitVec.signExtend, BitVec.toInt_eq_toNat_cond, low_toNat, Nat.cast_pow, Nat.cast_ofNat]
  simp only [hsign]

/-- Settles O42: sign extension keeps the two's-complement value of the low bits. -/
theorem extsSignExtendsLowBits : Obligations.ExtsSignExtendsLowBits := by
  unfold Obligations.ExtsSignExtendsLowBits
  refine ⟨⟨decode_ofNat rfl rfl, decode_ofNat rfl rfl, decode_ofNat rfl rfl, decode_ofNat rfl rfl⟩,
    fun s hs p hp => ?_⟩
  rw [exec_exts_eq hp, unlessFaulted_live hs, sext_low_eq (extsRows_width_pos p hp),
    State.respondOne_eq]

/-! ### The round trips -/

/-- The R and R2 of a response are what the host reads. -/
theorem results_of_respond {i : Instr} {s : State} {v w : Word} {k : Bit} (hs : s.faulted = false)
    (h : exec i s = unlessFaulted s (s.respond v w k)) : resultOf i s = some v ∧ secondResultOf i s = some w :=
  ⟨resultOf_live hs h, secondResultOf_live hs h⟩

theorem resultOf_pack {s : State} (hs : s.faulted = false) (x y : Word) :
    resultOf .pack (s.withOperands x y) = some (lowLimb x ++ lowLimb y) :=
  (results_of_respond (s := s.withOperands x y) hs rfl).1

theorem resultOf_split {s : State} (hs : s.faulted = false) (x y : Word) :
    resultOf .split (s.withOperands x y) = some (zext (highLimb x)) :=
  (results_of_respond (s := s.withOperands x y) hs rfl).1

theorem secondResultOf_split {s : State} (hs : s.faulted = false) (x y : Word) :
    secondResultOf .split (s.withOperands x y) = some (zext (lowLimb x)) :=
  (results_of_respond (s := s.withOperands x y) hs rfl).2

theorem lowLimb_zext (x : Limb) : lowLimb (zext x) = x := by
  apply BitVec.eq_of_toNat_eq
  rw [lowLimb_toNat, zext_toNat (by decide), Nat.mod_eq_of_lt x.isLt]

theorem highLimb_append_lowLimb (v : Word) : highLimb v ++ lowLimb v = v := by
  apply BitVec.eq_of_toNat_eq
  exact (append_toNat _ _).trans (toNat_eq_limbs v).symm

theorem fromNative_fromNative (order : ByteOrder) (v : Word) : fromNative order (fromNative order v) = v := by
  cases order with
  | le => rfl
  | be => exact bswap128_bswap128 v

/-- Each image command reads in one byte order: LE, BE, or the one of CFG (44_converter.md R184 to R186). -/
theorem resultOf_fromb {i : Instr} (hi : i ∈ [Instr.frombLe, .frombBe, .frombNat]) {s : State}
    (hs : s.faulted = false) :
    ∃ order, ∀ x y, resultOf i (s.withOperands x y) = some (fromNative order x) := by
  simp only [List.mem_cons, List.not_mem_nil, or_false] at hi
  obtain rfl | rfl | rfl := hi
  · exact ⟨.le, fun x y => (results_of_respond (s := s.withOperands x y) hs rfl).1⟩
  · exact ⟨.be, fun x y => (results_of_respond (s := s.withOperands x y) hs rfl).1⟩
  · exact ⟨s.cfg.byteOrder, fun x y => (results_of_respond (s := s.withOperands x y) hs rfl).1⟩

theorem resultOf_extz {p : Instr × Nat} (hp : p ∈ extzRows) {s : State} (hs : s.faulted = false) (x y : Word) :
    resultOf p.1 (s.withOperands x y) = some (zext (low p.2 x)) :=
  resultOf_live (s := s.withOperands x y) hs (exec_extz_eq hp _)

theorem resultOf_exts {p : Instr × Nat} (hp : p ∈ extsRows) {s : State} (hs : s.faulted = false) (x y : Word) :
    resultOf p.1 (s.withOperands x y) = some (sext (low p.2 x)) :=
  resultOf_live (s := s.withOperands x y) hs (exec_exts_eq hp _)

/-- Zero extension keeps the bits it extends. -/
theorem low_zext {n : Nat} (hn : n ≤ 128) (x : BitVec n) : low n (zext x) = x := by
  rw [low, zext, BitVec.setWidth_setWidth_of_le x hn, BitVec.setWidth_eq]

/-- Sign extension keeps the bits it extends. -/
theorem low_sext {n : Nat} (hn : n ≤ 128) (x : BitVec n) : low n (sext x) = x := by
  ext i hi
  rw [low, sext, BitVec.getElem_setWidth, BitVec.getLsbD_signExtend]
  simp [hi, Nat.lt_of_lt_of_le hi hn]

/-- Every extension keeps the low bits of its operand (44_converter.md R195). -/
theorem resultOf_extension_low {p : Instr × Nat} (hp : p ∈ extzRows ++ extsRows) {s : State}
    (hs : s.faulted = false) (x y : Word) :
    ∃ u, resultOf p.1 (s.withOperands x y) = some u ∧ low p.2 u = low p.2 x := by
  obtain hp | hp := List.mem_append.mp hp
  · exact ⟨_, resultOf_extz hp hs x y, low_zext (extzRows_width_le p hp) _⟩
  · exact ⟨_, resultOf_exts hp hs x y, low_sext (extsRows_width_le p hp) _⟩

/-- A sign extension and the zero extension of one width. -/
theorem extension_rows_of_pair {p : Instr × Instr}
    (hp : p ∈ [(Instr.exts8, Instr.extz8), (.exts16, .extz16), (.exts32, .extz32), (.exts64, .extz64)]) :
    ∃ n, (p.1, n) ∈ extsRows ∧ (p.2, n) ∈ extzRows := by
  simp only [List.mem_cons, List.not_mem_nil, or_false] at hp
  obtain rfl | rfl | rfl | rfl := hp
  · exact ⟨8, by decide⟩
  · exact ⟨16, by decide⟩
  · exact ⟨32, by decide⟩
  · exact ⟨64, by decide⟩

/-- Settles O43: limbs join again, reading in one byte order twice is no change, and an extension keeps the bits that
the next one reads. -/
theorem conversionsRoundTrip : Obligations.ConversionsRoundTrip := by
  unfold Obligations.ConversionsRoundTrip
  intro s v hs
  refine ⟨?_, fun i hi => ?_, fun p hp => ?_, fun p hp => ?_⟩
  · rw [resultOf_split hs, secondResultOf_split hs, Option.bind_some, Option.bind_some, resultOf_pack hs,
      lowLimb_zext, lowLimb_zext, highLimb_append_lowLimb]
  · obtain ⟨order, hread⟩ := resultOf_fromb hi hs
    rw [hread, Option.bind_some, hread, fromNative_fromNative]
  · obtain ⟨u, hresult, hlow⟩ := resultOf_extension_low hp hs v 0#128
    rw [hresult, Option.map_some, ← low_toNat, hlow, low_toNat]
  · obtain ⟨n, hexts, hextz⟩ := extension_rows_of_pair hp
    rw [resultOf_exts hexts hs, Option.bind_some, resultOf_extz hextz hs, resultOf_extz hextz hs,
      low_sext (extsRows_width_le _ hexts)]

end Sys2Proof.Machine
end

section
/-! PROOFS. The system family in a live state: what the configuration read leaves (45_system.md R200). -/

namespace Sys2Proof.Machine

/-- A flag at its weight. -/
theorem ite_weight_eq_ofBool_mul (b : Bool) (w : Nat) : (if b then w else 0) = (BitVec.ofBool b).toNat * w := by
  cases b <;> simp

theorem ite_be_weight_eq_byteOrderBit_mul (order : ByteOrder) (w : Nat) :
    (if order = .be then w else 0) = (byteOrderBit order).toNat * w := by
  cases order <;> simp [byteOrderBit]

/-- CFG as an integer, in the bits that lay its fields out (10_state.md R22). -/
theorem cfgNumber_eq_weighted_bits (c : Cfg) :
    Spec.cfgNumber c = (modeBits c.mode).toNat + (BitVec.ofBool c.hasNative128).toNat * 4 +
      (BitVec.ofBool c.hasAdc).toNat * 8 + (BitVec.ofBool c.hasMul64).toNat * 16 +
      (BitVec.ofBool c.hasDiv128by64).toNat * 32 + (byteOrderBit c.byteOrder).toNat * 64 := by
  simp only [Spec.cfgNumber, ite_weight_eq_ofBool_mul, ite_be_weight_eq_byteOrderBit_mul]
  cases c.mode <;> rfl

/-- Each field of CFG[6:0] has the weight of the bits below it. -/
theorem cfgLayout_toNat (c : Cfg) : (cfgLayout c).toNat = Spec.cfgNumber c := by
  rw [cfgLayout, cfgNumber_eq_weighted_bits]
  simp only [append_toNat]
  omega

theorem exec_rdcfg_live {s : State} (hs : s.faulted = false) :
    exec .rdcfg s = .next (s.respondOne (zext (cfgLayout s.cfg))) :=
  unlessFaulted_live hs _

/-- Settles O44: the laid out fields, zero-extended, are the configuration as an integer. -/
theorem rdcfgReadsConfiguration : Obligations.RdcfgReadsConfiguration := by
  unfold Obligations.RdcfgReadsConfiguration
  refine ⟨decode_ofNat rfl rfl, fun s hs => ?_⟩
  rw [exec_rdcfg_live hs, zext_eq_ofNat, cfgLayout_toNat, State.respondOne_eq]

end Sys2Proof.Machine
end

section
/-! PROOFS. Errors, faults and the faulted state: how a command ends, where a step stops, and what lasts until a reset
(60_exceptions.md R220 to R228). -/

namespace Sys2Proof.Machine

/-! ### The faulted state -/

theorem exec_faulted {s : State} (h : s.faulted = true) (i : Instr) : exec i s = .next s := by
  obtain ⟨e, hexec, -⟩ := exec_eq_unlessFaulted i s
  rw [hexec, unlessFaulted_faulted h]

theorem raiseIllegal_faulted {s : State} (h : s.faulted = true) : raiseIllegal s = .next s :=
  unlessFaulted_faulted h _

theorem runWord_of_decode_none {s : State} (h : decode s.now.cmd = none) : runWord s = raiseIllegal s := by
  rw [runWord, h]

theorem runWord_faulted {s : State} (h : s.faulted = true) : runWord s = .next s := by
  cases hdecode : decode s.now.cmd with
  | some i => rw [runWord_of_decode hdecode, exec_faulted h]
  | none => rw [runWord_of_decode_none hdecode, raiseIllegal_faulted h]

/-- Without a reset, a faulted CORE stays as it is, whether or not a command is offered. -/
theorem coreMoment_faulted {s : State} (h : s.faulted = true) (hrst : s.now.rst = false) : coreMoment s = .next s := by
  cases hvalid : s.now.cmdValid with
  | true => rw [coreMoment_of_offered hrst hvalid, runWord_faulted h]
  | false => exact coreMoment_of_idle hrst hvalid

theorem step_faulted {s : State} (hreads : s.hostReadsHeld) (h : s.faulted = true) (hrst : s.now.rst = false) :
    step s = .next s.advance := by
  rw [step_of_readsHeld hreads, coreMoment_faulted h hrst, thenAdvance]

/-! ### The fault lasts until a reset -/

/-- The CORE is faulted and the host applies no reset, neither now nor in a listed move. -/
structure State.FaultedWithoutReset (s : State) : Prop where
  faulted  : s.faulted = true
  now      : s.now.rst = false
  upcoming : ∀ m ∈ s.upcoming, m.rst = false

/-- The next move is a listed one, or the release after the last, which applies no reset (log 5). -/
theorem State.FaultedWithoutReset.advance {s : State} (h : s.FaultedWithoutReset) :
    s.advance.FaultedWithoutReset := by
  have hfaulted : s.advance.faulted = true := s.faulted_advance.trans h.faulted
  have hlisted := h.upcoming
  cases hmoves : s.upcoming with
  | nil =>
    rw [State.advance_nil hmoves] at hfaulted ⊢
    exact ⟨hfaulted, rfl, hlisted⟩
  | cons m rest =>
    rw [hmoves, List.forall_mem_cons] at hlisted
    obtain ⟨hm, hrest⟩ := hlisted
    rw [State.advance_cons hmoves] at hfaulted ⊢
    exact ⟨hfaulted, hm, hrest⟩

/-- From such a state a step is the host's move alone. -/
theorem State.FaultedWithoutReset.step_eq_advance {s t : State} (h : s.FaultedWithoutReset) (hstep : step s = .next t) :
    t = s.advance := by
  obtain ⟨hreads, -⟩ := step_cases hstep
  rw [step_faulted hreads h.faulted h.now] at hstep
  cases hstep
  rfl

/-- What every step of a machine keeps, every run of it keeps. -/
theorem run_keeps (M : Host.Core) {P : M.State → Prop} (hkeeps : ∀ s t, P s → M.step s = .next t → P t) {k : Nat}
    {s t : M.State} (hs : P s) (hrun : M.run k s = .next t) : P t := by
  induction k generalizing s with
  | zero =>
    cases hrun
    exact hs
  | succ k ih =>
    obtain ⟨u, hstep, hrest⟩ := run_succ_cases M hrun
    exact ih (hkeeps s u hs hstep) hrest

/-- Settles O49: being faulted with no reset ahead, and the response held, is kept by every step; after the listed moves
the host applies none by log 5. -/
theorem faultedResponseLastsUntilReset : Obligations.FaultedResponseLastsUntilReset := by
  unfold Obligations.FaultedResponseLastsUntilReset
  intro k s t hfaulted hrst hlisted hrun
  have hkeeps (u v : State) (hu : u.FaultedWithoutReset ∧ u.response = s.response) (hstep : step u = .next v) :
      v.FaultedWithoutReset ∧ v.response = s.response := by
    obtain ⟨hstuck, hresponse⟩ := hu
    obtain rfl := hstuck.step_eq_advance hstep
    exact ⟨hstuck.advance, u.response_advance.trans hresponse⟩
  obtain ⟨-, hresponse⟩ := run_keeps Sys2Proof.core hkeeps ⟨⟨hfaulted, hrst, hlisted⟩, rfl⟩ hrun
  exact hresponse

theorem cmdReady_of_not_rst {s : State} (h : s.now.rst = false) : cmdReady s = true := by
  simp [cmdReady, h]

/-- Settles O48: the faulted test stands in every meaning, the handshake does not read it, and reset clears STATUS. -/
theorem faultedCommandsHaveNoEffect : Obligations.FaultedCommandsHaveNoEffect := by
  unfold Obligations.FaultedCommandsHaveNoEffect
  refine fun s => ⟨Iff.rfl, fun h => ⟨exec_faulted h, raiseIllegal_faulted h, fun hrst => ?_, fun hrst hreads => ?_⟩⟩
  · refine ⟨cmdReady_of_not_rst hrst, accepts_of_offered hrst, fun hreads => ?_⟩
    exact ⟨s.advance, step_faulted hreads h hrst, s.response_advance, s.advance_cfg⟩
  · exact ⟨s.applyReset.advance, step_of_rst hreads hrst, by simp⟩

/-! ### How a live command ends -/

theorem divideOr_status (code : StatusCode) (s : State) :
    (divideOr code s).status = if s.now.b.toNat = 0 then code.bits else 0x0#4 := by
  by_cases hb : s.now.b.toNat = 0
  · rw [divideOr_zero hb, if_pos hb, State.endWith_status]
  · rw [divideOr_pos hb, if_neg hb, State.respond_status]

theorem shiftByPort_status (shift : Word → Nat → Word) (s : State) :
    (shiftByPort shift s).status = if 128 ≤ s.now.b.toNat then 0x9#4 else 0x0#4 := by
  by_cases hb : 128 ≤ s.now.b.toNat
  · rw [shiftByPort_outOfRange hb, if_pos hb]
    rfl
  · rw [shiftByPort_inRange (Nat.not_le.mp hb), if_neg hb, State.respond_status]

/-- Only a divide command and a shift by port `b` have a condition on their operands; every other command responds. -/
theorem exec_live_status {s : State} (hs : s.faulted = false) (i : Instr) :
    ∃ t, exec i s = .next t ∧ t.status = Spec.statusAfter i s := by
  cases i with
  | divmod | trydivmod | udivmod => exact ⟨_, unlessFaulted_live hs _, divideOr_status _ s⟩
  | shl | shr => exact ⟨_, unlessFaulted_live hs _, shiftByPort_status _ s⟩
  | addc128 _ | subb128 _ | addc64 _ | subb64 _ | mulw64 | mul128 | shli _ | shri _ | pack | split | frombLe | frombBe
  | frombNat | extz8 | extz16 | extz32 | extz64 | exts8 | exts16 | exts32 | exts64 | rdcfg =>
    exact ⟨_, unlessFaulted_live hs _, rfl⟩

/-- Settles O4: the word's decoding selects between the last two cases, and the first is the faulted test of both. -/
theorem faultedThenIllegalThenCommand : Obligations.FaultedThenIllegalThenCommand := by
  unfold Obligations.FaultedThenIllegalThenCommand
  refine fun s => ⟨runWord_faulted, fun hs hdecode => ?_, fun hs i hdecode => ?_⟩
  · exact runWord_of_illegal hs ((decode_eq_none_iff _).mp hdecode)
  · obtain ⟨t, hexec, hstatus⟩ := exec_live_status hs i
    exact ⟨t, hexec, (runWord_of_decode hdecode).trans hexec, hstatus⟩

/-- Settles O46: by the operand conditions of the commands, and ILLEGAL for a word that is none. -/
theorem statusCodesOfEveryCommand : Obligations.StatusCodesOfEveryCommand := by
  unfold Obligations.StatusCodesOfEveryCommand
  refine ⟨fun i s hs => exec_live_status hs i, fun s hs hillegal => ?_, by decide, by decide⟩
  exact ⟨s.endWith .illegal, runWord_of_illegal hs hillegal, rfl⟩

theorem StatusCode.bits_ne_zero {code : StatusCode} (h : code ≠ .ok) : code.bits ≠ 0x0#4 := by
  cases code with
  | ok => exact absurd rfl h
  | divDomain | divNoValue | ubDivZero | ubShift | illegal => decide

theorem EffectOf.values_of_ok {s t : State} (h : EffectOf s t) (hok : t.status = 0x0#4) :
    t.r.isSome = true ∧ t.r2.isSome = true := by
  cases h with
  | respond v w c _ => exact ⟨rfl, rfl⟩
  | ending code hcode => exact absurd hok (StatusCode.bits_ne_zero hcode)

theorem EffectOf.empty_of_not_ok {s t : State} (h : EffectOf s t) (hstatus : t.status ≠ 0x0#4) :
    t.r = none ∧ t.r2 = none ∧ t.cout = 0#1 := by
  cases h with
  | respond v w c _ => exact absurd (s.respond_status v w c) hstatus
  | ending code _ => exact ⟨rfl, rfl, rfl⟩

/-- Settles O47: a live command's effect is a response or an ending, and only a response leaves STATUS OK. -/
theorem outcomesLeaveNoStaleResult : Obligations.OutcomesLeaveNoStaleResult := by
  unfold Obligations.OutcomesLeaveNoStaleResult
  refine fun i s => ⟨fun h => exec_faulted h i, fun hs => ?_⟩
  obtain ⟨e, hexec, heffect⟩ := exec_eq_unlessFaulted i s
  exact ⟨e, hexec.trans (unlessFaulted_live hs e), heffect.values_of_ok, heffect.empty_of_not_ok⟩

/-! ### Where a step stops -/

theorem hostReadFault_eq (s : State) : hostReadFault s =
    if s.now.readsR = true ∧ s.r = none then some .readOfR
    else if s.now.readsR2 = true ∧ s.r2 = none then some .readOfR2 else none := by
  simp only [hostReadFault, Bool.and_eq_true, Option.isNone_iff_eq_none]

theorem hostReadFault_eq_readOfR_iff (s : State) :
    hostReadFault s = some .readOfR ↔ s.now.readsR = true ∧ s.r = none := by
  rw [hostReadFault_eq]
  split_ifs with hr hr2
  · exact iff_of_true rfl hr
  · exact iff_of_false nofun hr
  · exact iff_of_false nofun hr

theorem hostReadFault_eq_readOfR2_iff (s : State) :
    hostReadFault s = some .readOfR2 ↔
      ¬(s.now.readsR = true ∧ s.r = none) ∧ s.now.readsR2 = true ∧ s.r2 = none := by
  rw [hostReadFault_eq]
  split_ifs with hr hr2
  · exact iff_of_false nofun fun ⟨hnot, _⟩ => hnot hr
  · exact iff_of_true rfl ⟨hr, hr2⟩
  · exact iff_of_false nofun fun ⟨_, hread⟩ => hr2 hread

theorem step_of_readFault {s : State} {f : Fault} (h : hostReadFault s = some f) : step s = .fault f := by
  rw [step, h]

/-- A host that keeps its read duty gets a next state: the CORE itself never stops (60_exceptions.md R223 to R225). -/
theorem step_goes_on {s : State} (h : s.hostReadsHeld) : ∃ t, step s = .next t := by
  obtain ⟨u, hmoment⟩ := coreMoment_goes_on s
  exact ⟨u.advance, by rw [step_of_readsHeld h, hmoment, thenAdvance]⟩

theorem step_eq_next_iff (s : State) : (∃ t, step s = .next t) ↔ s.hostReadsHeld := by
  refine ⟨fun ⟨t, hstep⟩ => ?_, step_goes_on⟩
  obtain ⟨hreads, -⟩ := step_cases hstep
  exact hreads

/-- A step ends in the host's read fault, or goes on where there is none. -/
theorem step_outcome (s : State) :
    (∃ f, hostReadFault s = some f ∧ step s = .fault f) ∨ (hostReadFault s = none ∧ ∃ t, step s = .next t) := by
  cases h : hostReadFault s with
  | some f => exact .inl ⟨f, rfl, step_of_readFault h⟩
  | none => exact .inr ⟨rfl, step_goes_on ((hostReadFault_eq_none_iff s).mp h)⟩

theorem step_eq_fault_iff (s : State) (f : Fault) : step s = .fault f ↔ hostReadFault s = some f := by
  obtain ⟨g, hfault, hstep⟩ | ⟨hnone, t, hstep⟩ := step_outcome s
  · simp [hfault, hstep]
  · simp [hnone, hstep]

theorem step_ne_refused (s : State) (c : Refusal) : step s ≠ .refused c := by
  obtain ⟨g, -, hstep⟩ | ⟨-, t, hstep⟩ := step_outcome s
  · simp [hstep]
  · simp [hstep]

/-- Settles O5: a step stops in the host's read fault and nowhere else. -/
theorem stepStopsExactlyOnReadOfNone : Obligations.StepStopsExactlyOnReadOfNone := by
  unfold Obligations.StepStopsExactlyOnReadOfNone
  refine fun s => ⟨?_, ?_, step_ne_refused s, step_eq_next_iff s⟩
  · exact (step_eq_fault_iff s _).trans (hostReadFault_eq_readOfR_iff s)
  · exact (step_eq_fault_iff s _).trans (hostReadFault_eq_readOfR2_iff s)

end Sys2Proof.Machine
end

section
/-! PROOFS. What every command and every step keeps: the frame, the COUT of a command outside the adder family, the
invariant, and the host's next move (10_state.md sections 3 and 4; 60_exceptions.md sections 1 and 2;
70_reset_and_hazards.md R258, R260). -/

namespace Sys2Proof.Machine

/-! ### What one act of the CORE can do -/

/-- Running a word leaves the state as it is, when the CORE is faulted, or has an effect. -/
theorem runWord_eq_self_or_effect {s u : State} (h : runWord s = .next u) : u = s ∨ EffectOf s u := by
  obtain ⟨-, rfl⟩ | ⟨-, heffect⟩ := runWord_cases h
  · exact .inl rfl
  · exact .inr heffect

/-- The CORE's act is the reset event, nothing, or the effect of a word. -/
theorem coreMoment_outcome {s u : State} (h : coreMoment s = .next u) :
    u = s.applyReset ∨ u = s ∨ EffectOf s u := by
  obtain ⟨-, rfl⟩ | ⟨-, -, hrun⟩ | ⟨-, -, rfl⟩ := coreMoment_cases h
  · exact .inl rfl
  · exact .inr (runWord_eq_self_or_effect hrun)
  · exact .inr (.inl rfl)

/-! ### The invariant -/

theorem StatusCode.bits_mem (code : StatusCode) : code.bits ∈ [0x0#4, 0x1#4, 0x2#4, 0x8#4, 0x9#4, 0xA#4] := by
  cases code <;> decide

theorem State.Coherent.endWith (s : State) (code : StatusCode) : (s.endWith code).Coherent :=
  .of_empty rfl rfl rfl code.bits_mem

theorem State.Coherent.applyReset (s : State) : s.applyReset.Coherent :=
  .of_empty rfl rfl rfl (StatusCode.bits_mem .ok)

/-- A response is coherent when its carry stands only beside R2 = 0 (10_state.md R24, R25). -/
theorem State.Coherent.respond (s : State) (v : Word) {w : Word} {c : Bit} (hcarry : c = 1#1 → w = 0#128) :
    (s.respond v w c).Coherent where
  code := StatusCode.bits_mem .ok
  together := rfl
  noStale hstatus := absurd (s.respond_status v w c) hstatus
  emptyCarry hr := nomatch hr
  carryAlone hc := congrArg some (hcarry hc)

/-- Every effect overwrites the whole response, so it is coherent whatever stood before. -/
theorem EffectOf.coherent {s u : State} (h : EffectOf s u) : u.Coherent := by
  cases h with
  | respond v w c hcarry => exact .respond s v hcarry
  | ending code _ => exact .endWith s code

/-- The host's move writes none of the response registers. -/
theorem State.Coherent.advance {s : State} (h : s.Coherent) : s.advance.Coherent where
  code := s.advance_status ▸ h.code
  together := by rw [s.advance_r, s.advance_r2, h.together]
  noStale := by rw [s.advance_status, s.advance_r]; exact h.noStale
  emptyCarry := by rw [s.advance_r, s.advance_cout]; exact h.emptyCarry
  carryAlone := by rw [s.advance_cout, s.advance_r2]; exact h.carryAlone

theorem coreMoment_coherent {s u : State} (hs : s.Coherent) (h : coreMoment s = .next u) : u.Coherent := by
  obtain rfl | rfl | heffect := coreMoment_outcome h
  · exact .applyReset s
  · exact hs
  · exact heffect.coherent

theorem step_coherent {s t : State} (hs : s.Coherent) (h : step s = .next t) : t.Coherent := by
  obtain ⟨-, u, hmoment, rfl⟩ := step_cases h
  exact (coreMoment_coherent hs hmoment).advance

theorem coreMoment_cfg {s u : State} (h : coreMoment s = .next u) : u.cfg = s.cfg := by
  obtain rfl | rfl | heffect := coreMoment_outcome h
  · exact s.applyReset_cfg
  · rfl
  · obtain ⟨hcfg, -, -⟩ := heffect.frame
    exact hcfg

/-- No step writes CFG (10_state.md R22, R28). -/
theorem step_cfg {s t : State} (h : step s = .next t) : t.cfg = s.cfg := by
  obtain ⟨-, u, hmoment, rfl⟩ := step_cases h
  exact u.advance_cfg.trans (coreMoment_cfg hmoment)

/-- Settles O56: reset and every effect leave a coherent response whatever stood before, the other acts and the host's
move leave the response, and no step writes CFG. -/
theorem stepKeepsInvariant : Obligations.StepKeepsInvariant := by
  unfold Obligations.StepKeepsInvariant
  intro s t ⟨hcoherent, hlegal⟩ hstep
  have ht : t.CfgLegal := (congrArg Cfg.legal (step_cfg hstep)).trans hlegal
  exact ⟨step_coherent hcoherent hstep, ht⟩

/-! ### The frame of a command -/

theorem exec_goes_on (i : Instr) (s : State) : ∃ t, exec i s = .next t := by
  obtain ⟨e, hexec, -⟩ := exec_eq_unlessFaulted i s
  exact ⟨_, hexec⟩

/-- A command leaves the configuration and the host's fields as they are, faulted or not. -/
theorem exec_frame {i : Instr} {s t : State} (h : exec i s = .next t) :
    t.cfg = s.cfg ∧ t.now = s.now ∧ t.upcoming = s.upcoming := by
  obtain ⟨-, rfl⟩ | ⟨-, heffect⟩ := exec_cases h
  · exact ⟨rfl, rfl, rfl⟩
  · exact heffect.frame

/-- Settles O50: a command answers through `unlessFaulted`, whose two outcomes keep the frame. -/
theorem commandsWriteOnlyTheResponse : Obligations.CommandsWriteOnlyTheResponse := by
  unfold Obligations.CommandsWriteOnlyTheResponse
  refine ⟨fun i s => ?_, fun s t => step_cfg⟩
  obtain ⟨t, hexec⟩ := exec_goes_on i s
  exact ⟨t, hexec, exec_frame hexec⟩

/-! ### COUT after a command outside the adder family -/

theorem divideOr_cout (code : StatusCode) (s : State) : (divideOr code s).cout = 0#1 := by
  by_cases hb : s.now.b.toNat = 0
  · rw [divideOr_zero hb, State.endWith_cout]
  · rw [divideOr_pos hb, State.respond_cout]

theorem shiftByPort_cout (shift : Word → Nat → Word) (s : State) : (shiftByPort shift s).cout = 0#1 := by
  by_cases hb : s.now.b.toNat < 128
  · rw [shiftByPort_inRange hb, State.respond_cout]
  · rw [shiftByPort_outOfRange (Nat.not_lt.mp hb), State.endWith_cout]

/-- Only the adder family computes a carry (10_state.md R25). -/
theorem exec_live_cout {i : Instr} {s : State} (hs : s.faulted = false) (hadder : Spec.isAdder i = false) :
    ∃ t, exec i s = .next t ∧ t.cout = 0#1 := by
  cases i with
  | addc128 _ | subb128 _ | addc64 _ | subb64 _ => exact nomatch hadder
  | divmod | trydivmod | udivmod => exact ⟨_, unlessFaulted_live hs _, divideOr_cout _ s⟩
  | shl | shr => exact ⟨_, unlessFaulted_live hs _, shiftByPort_cout _ s⟩
  | mulw64 | mul128 | shli _ | shri _ | pack | split | frombLe | frombBe | frombNat | extz8 | extz16 | extz32 | extz64
  | exts8 | exts16 | exts32 | exts64 | rdcfg => exact ⟨_, unlessFaulted_live hs _, rfl⟩

/-- Settles O54: CHAIN selects COUT, which such a command leaves 0 in a result and in an ending alike. -/
theorem chainReadsZeroAfterOtherCommand : Obligations.ChainReadsZeroAfterOtherCommand := by
  unfold Obligations.ChainReadsZeroAfterOtherCommand
  intro i s hs hadder
  exact exec_live_cout hs hadder

/-! ### The host's next move -/

/-- Settles O3: the two cases of `advance`, the second written out as the release of log 5. -/
theorem hostMovesInListOrder : Obligations.HostMovesInListOrder := by
  unfold Obligations.HostMovesInListOrder
  exact ⟨fun _ _ _ => State.advance_cons, fun _ => State.advance_nil⟩

end Sys2Proof.Machine
end
